-- ==== Sys2Proof/Word.lean ====
section
/-! DEFINITION. Words, bytes and the value types of 00_scope.md R11 and R12.
All values are unsigned (R11). `UNKNOWN` of a type `Opt(T)` is `none` of `Option T` (R12). -/

namespace Sys2Proof

/-- A byte, 0..255 (R11). -/
abbrev Byte := BitVec 8

/-- A host-visible register value or a command word (R9, R11, R65). -/
abbrev Word := BitVec 32

/-- The level on a line (R12). -/
inductive Level where
  | low
  | high
deriving DecidableEq, Repr, Inhabited

/-- The direction of a line (R12): `input`, the BBM does not drive it; `output`, it drives its latch. -/
inductive Dir where
  | input
  | output
deriving DecidableEq, Repr

/-- The two lines (R12). -/
inductive Line where
  | clk
  | dio
deriving DecidableEq, Repr

/-- The order in which the bits of a byte are sent (R27, R107). -/
inductive BitOrder where
  | msbFirst
  | lsbFirst
deriving DecidableEq, Repr, Inhabited

end Sys2Proof
end

