-- ==== Sys2Proof/Config.lean ====
section
/-! DEFINITION. The implementation parameters of 00_scope.md R9 and the free values of the model.
A parameter the source leaves to the device or platform is OPEN: nothing in the model fixes it. -/

namespace Sys2Proof

/-- The parameters of R9. `maxPayload` has the type of the integers 0..16, so a parameter set that breaks
R10 cannot be written down (log entry 6). `pinClk`, `pinDio` and `hostBusStallOk` are read by no rule
(R9, R21, R174). -/
structure Params where
  /-- `BBM_BASE`, the host address of register offset 0x00 (R50). -/
  bbmBase : Nat
  /-- `PIN_CLK` (R21). -/
  pinClk : Nat
  /-- `PIN_DIO` (R21). -/
  pinDio : Nat
  /-- `BIT_ORDER_RESET` (R33, R36). -/
  bitOrderReset : BitOrder
  /-- `HOLD_RESET` (R33, R36). -/
  holdReset : BitVec 16
  /-- `HOLD_UNIT`, the duration of one count of CONFIG.HOLD; timing only (R86, R178). -/
  holdUnit : Nat
  /-- `MAX_PAYLOAD`, an integer 0..16 (R10, R128). -/
  maxPayload : Fin 17
  /-- `BRIGHTNESS_MAX`, an integer 0..255 (R129). -/
  brightnessMax : Byte
  /-- `BRIGHTNESS_CMD` (R129). -/
  brightnessCmd : Byte
  /-- `ADDR_HEADER` (R128). -/
  addrHeader : Byte
  /-- `HOST_BUS_STALL_OK`; timing only (R174). -/
  hostBusStallOk : Bool
deriving DecidableEq, Repr, Inhabited

/-- `TXBUF_DEPTH` (R9). -/
abbrev txbufDepth : Nat := 16

/-- Size in bytes of the register window (R50). -/
abbrev windowSize : Nat := 0x80

/-- The parameters of the machine `State.reset` describes. It has no body: nothing can be proved of its
values (R9: "a model must not fix them"; log entry 5). DESIGN CHOICE. -/
opaque Config.platform : Params

/-- Free value: the answer to the n-th CLAIM after the queued answers are used up (R39; log entry 4). -/
opaque Config.freeClaimOk : Nat → Bool

/-- Free value: whether the n-th line operation after the queued answers succeeds (R39; log entry 4). -/
opaque Config.freeOpOk : Nat → Bool

/-- Free value: the level the n-th sample reads after the queued answers are used up (R39; log entry 4). -/
opaque Config.freeDioLevel : Nat → Level

end Sys2Proof
end

