-- ==== Sys2Proof/Syntax.lean ====
section
/-! DEFINITION. The instructions: the eight commands of 30_encoding.md R66, one constructor per row of
spec/opcode_table.json. Operands are bytes taken from the word as they stand (R67). -/

namespace Sys2Proof

/-- A command of the BBM (R66). -/
inductive Instr where
  /-- OPEN (R92). -/
  | openLink
  /-- CLOSE (R93). -/
  | closeLink
  /-- START (R106). -/
  | start
  /-- WRITE_BYTE, `b` the byte to send (R111). -/
  | writeByte (b : Byte)
  /-- STOP, the normal stop or the recovery stop (R114). -/
  | stop
  /-- WRITE_CMD, `c` the command byte (R127). -/
  | writeCmd (c : Byte)
  /-- WRITE_REG_BUF, `r` the register and `n` the payload length (R128). -/
  | writeRegBuf (r : Byte) (n : Byte)
  /-- SET_BRIGHTNESS, `l` the level (R129). -/
  | setBrightness (l : Byte)
deriving DecidableEq, Repr

end Sys2Proof
end

