-- ==== Sys2Proof/WellFormed.lean ====
section
/-! DEFINITION. Well-formedness.
The operands of `Instr` are bytes, so their type carries every bound 30_encoding.md gives them and every
term is well formed. What can be ill formed is a command word (R65, R69), a literal of an assembler
statement (R71) and a value offered for MAX_PAYLOAD (R10): each has its check here. -/

namespace Sys2Proof

/-- Every term of `Instr` is a legal command: "Every byte value is valid", and a LEN above MAX_PAYLOAD is
"a legal encoding that the command rejects" (R67). -/
def Instr.wellFormed : Instr → Bool
  | .openLink => true
  | .closeLink => true
  | .start => true
  | .writeByte _ => true
  | .stop => true
  | .writeCmd _ => true
  | .writeRegBuf _ _ => true
  | .setBrightness _ => true

/-- OP holds one of the eight operations (R66). -/
def Word.opDefined (w : Word) : Bool :=
  let op := (w.extractLsb' 28 4).toNat
  decide (1 ≤ op ∧ op ≤ 8)

/-- RSVA, bits 27..24, is 0 (R65). -/
def Word.rsvaZero (w : Word) : Bool := w.extractLsb' 24 4 == 0

/-- RSVB, bits 15..8, is 0 (R65). -/
def Word.rsvbZero (w : Word) : Bool := w.extractLsb' 8 8 == 0

/-- LEN, bits 23..16, is 0 unless the operation is WRITE_REG_BUF (R65). -/
def Word.lenZeroIfUnused (w : Word) : Bool :=
  (w.extractLsb' 28 4 == 7) || (w.extractLsb' 16 8 == 0)

/-- ARG, bits 7..0, is 0 where the operation has no operand: OPEN, CLOSE, START, STOP (R65, R66). -/
def Word.argZeroIfUnused (w : Word) : Bool :=
  !([1, 2, 3, 5].contains (w.extractLsb' 28 4).toNat) || (w.extractLsb' 0 8 == 0)

/-- A command word is legal, read field by field from R65 and R69. The decoder of R68 uses the table of
masks instead; that the two agree is a statement for the provers. -/
def Word.legal (w : Word) : Bool :=
  w.opDefined && w.rsvaZero && w.rsvbZero && w.lenZeroIfUnused && w.argZeroIfUnused

/-- A literal fits a field of `bits` bits (R71). -/
def literalFits (bits v : Nat) : Bool := decide (v < 2 ^ bits)

/-- The value offered for MAX_PAYLOAD, refused above TXBUF_DEPTH (R10). -/
def maxPayloadOf (n : Nat) : Option (Fin 17) :=
  if h : n < 17 then some ⟨n, h⟩ else none

end Sys2Proof
end

