-- ==== Sys2Proof/Decode.lean ====
section
/-! DEFINITION. Decoding and encoding of command words (30_encoding.md R65 to R70).
There is one format and one length; a word is decoded as a whole number, so no byte order enters (R52). -/

namespace Sys2Proof

/-- The operations of the OP field (R66). -/
inductive Op where
  | openLink
  | closeLink
  | start
  | writeByte
  | stop
  | writeCmd
  | writeRegBuf
  | setBrightness
deriving DecidableEq, Repr

/-- Why a word is an illegal command (R69). -/
inductive Illegal where
  /-- OP is 0x0 or in 0x9..0xF. -/
  | reservedOp
  /-- A reserved bit, or a bit of an operand the operation does not have, is not 0. -/
  | reservedBits
deriving DecidableEq, Repr

/-- What a word decodes to (R68). -/
inductive Decoded where
  | command (i : Instr)
  | illegal (why : Illegal)
deriving DecidableEq, Repr

/-- The operand byte ARG = w[7:0] (R67). -/
def argOf (w : Word) : Byte := w.extractLsb' 0 8

/-- The payload length LEN = w[23:16] (R67). -/
def lenOf (w : Word) : Byte := w.extractLsb' 16 8

/-- The operation of OP = w[31:28], none where it is reserved (R66). -/
def opOf (w : Word) : Option Op :=
  match (w.extractLsb' 28 4).toNat with
  | 1 => some .openLink
  | 2 => some .closeLink
  | 3 => some .start
  | 4 => some .writeByte
  | 5 => some .stop
  | 6 => some .writeCmd
  | 7 => some .writeRegBuf
  | 8 => some .setBrightness
  | _ => none

/-- The mask column of the table of R68. -/
def Op.mask : Op → Word
  | .openLink => 0xFFFFFFFF
  | .closeLink => 0xFFFFFFFF
  | .start => 0xFFFFFFFF
  | .writeByte => 0xFFFFFF00
  | .stop => 0xFFFFFFFF
  | .writeCmd => 0xFFFFFF00
  | .writeRegBuf => 0xFF00FF00
  | .setBrightness => 0xFFFFFF00

/-- The match column of the table of R68. -/
def Op.matchWord : Op → Word
  | .openLink => 0x10000000
  | .closeLink => 0x20000000
  | .start => 0x30000000
  | .writeByte => 0x40000000
  | .stop => 0x50000000
  | .writeCmd => 0x60000000
  | .writeRegBuf => 0x70000000
  | .setBrightness => 0x80000000

/-- The command of an operation with the operands the word holds (R66, R67). -/
def Op.withOperands (arg len : Byte) : Op → Instr
  | .openLink => .openLink
  | .closeLink => .closeLink
  | .start => .start
  | .writeByte => .writeByte arg
  | .stop => .stop
  | .writeCmd => .writeCmd arg
  | .writeRegBuf => .writeRegBuf arg len
  | .setBrightness => .setBrightness arg

/-- `Decode(w)` of R68, total on all words. -/
def decode (w : Word) : Decoded :=
  match opOf w with
  | none => .illegal .reservedOp
  | some op =>
    if w &&& op.mask = op.matchWord then .command (op.withOperands (argOf w) (lenOf w))
    else .illegal .reservedBits

/-- The command a word decodes to, if it is legal. -/
def Decoded.instr? : Decoded → Option Instr
  | .command i => some i
  | .illegal _ => none

/-- The decoder's answer for an instruction word given as a number of `nbits` bits, numbered as
spec/opcode_table.json numbers them; the bits above `nbits` are 0. A command word has 32 bits (R70). -/
def decodeTableWord (nbits w : Nat) : Option Instr :=
  if nbits ≤ 32 then (decode (BitVec.ofNat 32 (w % 2 ^ nbits))).instr? else none

/-- The word of a command (R65, R66): its operands shifted into LEN and ARG under the operation's OP. -/
def encode : Instr → Word
  | .openLink => 0x10000000
  | .closeLink => 0x20000000
  | .start => 0x30000000
  | .writeByte b => 0x40000000 ||| b.zeroExtend 32
  | .stop => 0x50000000
  | .writeCmd c => 0x60000000 ||| c.zeroExtend 32
  | .writeRegBuf r n => 0x70000000 ||| (n.zeroExtend 32 <<< 16) ||| r.zeroExtend 32
  | .setBrightness l => 0x80000000 ||| l.zeroExtend 32

end Sys2Proof
end

