-- ==== Sys2Proof/Machine/State.lean ====
section
/-! DEFINITION. The state of the BBM (10_state.md R20) as plain data, with the environment's pending answers
and the pending inputs from outside, and the state after reset (R36). -/

namespace Sys2Proof.Machine

/-- The link state (R22). -/
inductive Link where
  | unopened
  | opened
  | closed
deriving DecidableEq, Repr

/-- The transaction state (R23). -/
inductive Xst where
  | idle
  | inframe
  | aborted
deriving DecidableEq, Repr

/-- The result codes (60_exceptions.md R140). -/
inductive ResultCode where
  | ok
  | configurationError
  | invalidArgument
  | ioError
  | illegalState
  | sequenceError
  | illegalCommand
deriving DecidableEq, Repr

/-- The part of a script a micro-operation is in (R24). -/
inductive Phase where
  | start
  | bit (i : Fin 8)
  | ack
  | stop
  | recover
deriving DecidableEq, Repr

/-- The sequencer position (R24): `seq` counts the micro-operations run; the scripts of OPEN and CLOSE
have no phase name in the spec (log entry 12). -/
structure SeqPos where
  seq : Nat
  phase : Option Phase
deriving DecidableEq, Repr

/-- The fields of one line (R21). `dir` and `lat` are `none` when UNKNOWN (R12, R145; log entry 10). -/
structure LineState where
  claimed : Bool
  dir : Option Dir
  lat : Option Level
deriving DecidableEq, Repr

/-- A line event (40_lines.md R80); `ok = false`, or a sample without a level, is the mark `!`. -/
inductive LineEvent where
  | claim (l : Line) (ok : Bool)
  | dir (l : Line) (d : Dir) (ok : Bool)
  | drv (l : Line) (v : Level) (ok : Bool)
  | smp (l : Line) (v : Option Level)
  | hold
  | rel (l : Line)
  | rst
deriving DecidableEq, Repr

/-- A host access to the window (20_memory.md R50, R51). `width` is in bytes; `offset` is the address less
BBM_BASE, negative below the window (log entry 7). -/
inductive Access where
  | read (width : Nat) (offset : Int)
  | write (width : Nat) (offset : Int) (v : Word)
deriving DecidableEq, Repr

/-- An input from outside the BBM: a host access, or a reset. `reset n` behind the access that issues a
command arrives when that command has run `n` micro-operations, or right after it if it runs no more than
`n` (70_reset R165, R166; log entry 3). -/
inductive HostInput where
  | access (a : Access)
  | reset (n : Nat)
deriving DecidableEq, Repr

/-- The answers to one kind of draw (R39): the queued ones, oldest first, then free values, of which
`taken` have been used (log entry 4). -/
structure Source (α : Type) where
  queue : List α
  taken : Nat
deriving DecidableEq, Repr

/-- The environment's answers (R39), one source for each kind of draw. The model's own field. -/
structure Draws where
  claimOk : Source Bool
  opOk : Source Bool
  dioLevel : Source Level
deriving DecidableEq, Repr

/-- The state of the machine (R20), followed by the model's own fields (log entries 2, 4, 5, 8). -/
structure State where
  /-- `claimed`, `dir` and `lat` of CLK (R21). -/
  clk : LineState
  /-- `claimed`, `dir` and `lat` of DIO (R21). -/
  dio : LineState
  /-- `LINK` (R22). -/
  link : Link
  /-- `XST` (R23). -/
  xst : Xst
  /-- `seq` and `phase`, none while no script runs (R24). -/
  sequencer : Option SeqPos
  /-- `ERR` (R26). -/
  err : ResultCode
  /-- `ACKV` (R26). -/
  ackv : Word
  /-- `ACKCNT`, 0..17 (R26). -/
  ackcnt : Nat
  /-- `BIT_ORDER` (R27). -/
  bitOrder : BitOrder
  /-- `HOLD` (R27). -/
  hold : BitVec 16
  /-- `TXBUF` (R28). -/
  txbuf : Vector Byte 16
  /-- `trace`, oldest event first (R80). -/
  trace : List LineEvent
  /-- The parameters of R9; no step changes them. The model's own field. -/
  params : Params
  /-- The pending answers of the environment (R39). The model's own field. -/
  draws : Draws
  /-- The pending inputs, next first. The model's own field. -/
  inputs : List HostInput
  /-- What the last completed host read returned. The model's own field. -/
  hostRead : Option Word
deriving DecidableEq, Repr

/-- The model faults (60_exceptions.md R157). -/
inductive Fault where
  /-- BAD_LINE_OP: a micro-operation whose precondition fails (R94), raised by `runScript`. The spec gives
  it no meaning; stopping is safe. No state that meets the resting invariant reaches it. -/
  | badLineOp
deriving DecidableEq, Repr

/-- What the model does not accept. -/
inductive Refusal where
  /-- An instruction without a meaning, named by its mnemonic; raised by no arm of `exec`. Safe. -/
  | notModelled (mnemonic : String)
  /-- A host access of a width other than 32 bits (R51), raised by `step`. The spec refuses it. Safe. -/
  | accessWidth
  /-- A misaligned host access (R51), raised by `step`. The spec refuses it. Safe. -/
  | accessMisaligned
  /-- A host access outside the window (R51), raised by `step`. The spec refuses it. Safe. -/
  | accessOutsideWindow
deriving DecidableEq, Repr

/-- A line as reset leaves it: not claimed, IN, latch HIGH (R36). -/
def LineState.released : LineState := ⟨false, some .input, some .high⟩

/-- A source with nothing queued. -/
def Source.empty {α : Type} : Source α := ⟨[], 0⟩

/-- The state after reset for given parameters (R36). The trace is empty: the observation begins here
(log entry 9). -/
def State.resetWith (p : Params) : State where
  clk := .released
  dio := .released
  link := .unopened
  xst := .idle
  sequencer := none
  err := .ok
  ackv := 0
  ackcnt := 0
  bitOrder := p.bitOrderReset
  hold := p.holdReset
  txbuf := Vector.replicate 16 0
  trace := []
  params := p
  draws := ⟨.empty, .empty, .empty⟩
  inputs := []
  hostRead := none

/-- The machine right after reset (R36), for parameters nothing is known of (R9). -/
def State.reset : State := State.resetWith Config.platform

end Sys2Proof.Machine
end

