-- ==== Sys2Proof/Machine/Flags.lean ====
section
/-! DEFINITION. The status information. The BBM has no condition codes (10_state.md R38): what it keeps is
ERR, ACKCNT and ACKV, written only by `finish` (60_exceptions.md R141), and the views of the state that
the registers STATUS, ACK and CONFIG give (R31 to R33). -/

namespace Sys2Proof.Machine

/-- The encoding of LINK in STATUS (R22). -/
def linkBits (l : Link) : BitVec 2 :=
  match l with
  | .unopened => 0
  | .opened => 1
  | .closed => 2

/-- The encoding of XST in STATUS (R23). -/
def xstBits (x : Xst) : BitVec 2 :=
  match x with
  | .idle => 0
  | .inframe => 1
  | .aborted => 2

/-- The number of a result code (R140). -/
def codeBits (c : ResultCode) : BitVec 4 :=
  match c with
  | .ok => 0
  | .configurationError => 1
  | .invalidArgument => 2
  | .ioError => 3
  | .illegalState => 4
  | .sequenceError => 5
  | .illegalCommand => 6

/-- The sum over `k` of `acks[k] ? 1 << k : 0` (R141). -/
def ackSum : List Bool → Nat
  | [] => 0
  | a :: rest => a.toNat + 2 * ackSum rest

/-- `Finish(code, acks)`, the only writer of ERR, ACKCNT and ACKV (R141). -/
def finish (code : ResultCode) (acks : List Bool) (s : State) : State :=
  { s with err := code, ackcnt := acks.length, ackv := BitVec.ofNat 32 (ackSum acks) }

/-- The value STATUS reads: LINK, XST, ERR and ACKCNT in their fields, every other bit 0 (R31). -/
def statusWord (s : State) : Word :=
  (linkBits s.link).zeroExtend 32 ||| (xstBits s.xst).zeroExtend 32 <<< 2 |||
    (codeBits s.err).zeroExtend 32 <<< 8 ||| (BitVec.ofNat 5 s.ackcnt).zeroExtend 32 <<< 16

/-- The bit of a bit order in CONFIG (R33). -/
def orderBit (o : BitOrder) : BitVec 1 :=
  match o with
  | .msbFirst => 0
  | .lsbFirst => 1

/-- The bit order a CONFIG write selects: bit 0 of the word (R33). -/
def orderOfWord (v : Word) : BitOrder := if v.getLsbD 0 then .lsbFirst else .msbFirst

/-- The value CONFIG reads: BIT_ORDER in bit 0, HOLD in bits 31..16, every other bit 0 (R33). -/
def configWord (s : State) : Word :=
  (orderBit s.bitOrder).zeroExtend 32 ||| s.hold.zeroExtend 32 <<< 16

end Sys2Proof.Machine
end

