-- ==== Sys2Proof/Machine/Operands.lean ====
section
/-! DEFINITION. The operands of the commands and the bits on the wire: bit selection and polarity
(41_transport.md R107, R108), and the bytes the framed commands send (42_protocol.md R127 to R130). -/

namespace Sys2Proof.Machine

/-- `BitAt(b, i)`: the bit of `b` sent in slot `i` (R107). -/
def bitAt (order : BitOrder) (b : Byte) (i : Fin 8) : Bool :=
  match order with
  | .msbFirst => b.getLsbD (7 - i.val)
  | .lsbFirst => b.getLsbD i.val

/-- `LevelOf(bit)`: a data bit 1 is HIGH (R108). -/
def levelOf (bit : Bool) : Level := if bit then .high else .low

/-- `AckOf(level)`: DIO LOW is an acknowledge (R108). -/
def ackOf (v : Level) : Bool :=
  match v with
  | .low => true
  | .high => false

/-- The bit slots in the order they are sent (R109). -/
def bitSlots : List (Fin 8) := [0, 1, 2, 3, 4, 5, 6, 7]

/-- The address byte of WRITE_REG_BUF, `ADDR_HEADER | r` (R128, R130). -/
def addressByte (p : Params) (r : Byte) : Byte := p.addrHeader ||| r

/-- The payload of WRITE_REG_BUF, TXBUF[0..n-1] (R128). -/
def payload (s : State) (n : Byte) : List Byte := s.txbuf.toList.take n.toNat

/-- The bytes of WRITE_REG_BUF in the order they are sent (R53, R128). -/
def regBufBytes (s : State) (r n : Byte) : List Byte := addressByte s.params r :: payload s n

/-- The two bytes of SET_BRIGHTNESS (R129). -/
def brightnessBytes (p : Params) (l : Byte) : List Byte :=
  [p.brightnessCmd, p.brightnessCmd ||| l]

end Sys2Proof.Machine
end

