-- ==== Sys2Proof/Machine/Ops.lean ====
section
/-! DEFINITION. The shared operations: the lines, the environment's draws, the micro-operations
(40_lines.md R82 to R87), how a script runs (R91), the scripts, admission (60_exceptions.md R142), and
what takes the place of an exception here: the abort after a line failure (R145), with the recovery stop
as the return from it (R113, R147), the rejection of a command (R144), and reset (70_reset R165). -/

namespace Sys2Proof.Machine

/-! ### Lines, trace and sequencer -/

/-- The fields of line `l` (R21). -/
def State.line (s : State) : Line → LineState
  | .clk => s.clk
  | .dio => s.dio

/-- The state with the fields of line `l` replaced. -/
def State.setLine (s : State) (l : Line) (f : LineState) : State :=
  match l with
  | .clk => { s with clk := f }
  | .dio => { s with dio := f }

/-- `emit(e)` (R13, R80). -/
def State.emit (s : State) (e : LineEvent) : State := { s with trace := s.trace ++ [e] }

/-- How many micro-operations of the running script have been run (R24). -/
def State.seqIndex (s : State) : Nat :=
  match s.sequencer with
  | none => 0
  | some p => p.seq

/-- `seq <- 0` when a command is admitted (R24, R91). -/
def State.beginScript (s : State) : State := { s with sequencer := some ⟨0, none⟩ }

/-- The sequencer enters the phase of its next micro-operation (R24). -/
def State.enterPhase (s : State) (ph : Option Phase) : State :=
  { s with sequencer := some ⟨s.seqIndex, ph⟩ }

/-- `seq` advances by one (R24). -/
def State.advance (s : State) : State :=
  { s with sequencer := some ⟨s.seqIndex + 1, s.sequencer.bind (·.phase)⟩ }

/-- The sequencer position does not survive the end of a command (R24). -/
def State.endScript (s : State) : State := { s with sequencer := none }

/-- `wire(L)` (R81): `other` is the level another party drives on the line, none if there is no such
party. The result is none when the level is UNKNOWN. -/
def wire (f : LineState) (other : Option Level) : Option Level :=
  match f.dir with
  | none => none
  | some .input => some (other.getD .high)
  | some .output => if f.claimed then f.lat else some (other.getD .high)

/-! ### Draws -/

/-- The next answer of a source: the oldest queued one, or else the next free value. -/
def Source.draw {α : Type} (free : Nat → α) (src : Source α) : α × Source α :=
  match src.queue with
  | a :: rest => (a, { src with queue := rest })
  | [] => (free src.taken, { src with taken := src.taken + 1 })

/-- The `k`-th answer a source will give, counted from 0. -/
def Source.answer {α : Type} (free : Nat → α) (src : Source α) (k : Nat) : α :=
  match src.queue[k]? with
  | some a => a
  | none => free (src.taken + (k - src.queue.length))

/-- The source after `k` answers have been drawn. -/
def Source.after {α : Type} (src : Source α) (k : Nat) : Source α :=
  ⟨src.queue.drop k, src.taken + (k - src.queue.length)⟩

/-- `draw claim_ok` (R39). -/
def drawClaimOk (s : State) : Bool × State :=
  let r := s.draws.claimOk.draw Config.freeClaimOk
  (r.1, { s with draws := { s.draws with claimOk := r.2 } })

/-- `draw op_ok` (R39). -/
def drawOpOk (s : State) : Bool × State :=
  let r := s.draws.opOk.draw Config.freeOpOk
  (r.1, { s with draws := { s.draws with opOk := r.2 } })

/-- `draw dio_level` (R39). -/
def drawDioLevel (s : State) : Level × State :=
  let r := s.draws.dioLevel.draw Config.freeDioLevel
  (r.1, { s with draws := { s.draws with dioLevel := r.2 } })

/-! ### Micro-operations -/

/-- The micro-operations of R14. -/
inductive Micro where
  | claim (l : Line)
  | dir (l : Line) (d : Dir)
  | drv (l : Line) (v : Level)
  | smp (l : Line)
  | hold
  | rel (l : Line)
deriving DecidableEq, Repr

/-- How a micro-operation ends: it succeeds, with the level a sample read; it fails, ClaimFail or
LineFail (R82, R88); or its precondition does not hold (R94). -/
inductive MicroEnd where
  | ok (s : State) (sample : Option Level)
  | fail (s : State)
  | bad
deriving DecidableEq, Repr

/-- `CLAIM(L)` (R82). -/
def microClaim (l : Line) (s : State) : MicroEnd :=
  if (s.line l).claimed then .bad
  else
    let r := drawClaimOk s
    if r.1 then .ok ((r.2.setLine l ⟨true, some .input, some .high⟩).emit (.claim l true)) none
    else .fail (r.2.emit (.claim l false))

/-- `DIR(L, d)` (R83). -/
def microDir (l : Line) (d : Dir) (s : State) : MicroEnd :=
  if (s.line l).claimed then
    let r := drawOpOk s
    if r.1 then .ok ((r.2.setLine l { s.line l with dir := some d }).emit (.dir l d true)) none
    else .fail (r.2.emit (.dir l d false))
  else .bad

/-- `DRV(L, v)` (R84). -/
def microDrv (l : Line) (v : Level) (s : State) : MicroEnd :=
  if (s.line l).claimed ∧ (s.line l).dir = some .output then
    let r := drawOpOk s
    if r.1 then .ok ((r.2.setLine l { s.line l with lat := some v }).emit (.drv l v true)) none
    else .fail (r.2.emit (.drv l v false))
  else .bad

/-- `SMP(L)` (R85). -/
def microSmp (l : Line) (s : State) : MicroEnd :=
  if (s.line l).claimed ∧ (s.line l).dir = some .input then
    let r := drawOpOk s
    if r.1 then
      let q := drawDioLevel r.2
      .ok (q.2.emit (.smp l (some q.1))) (some q.1)
    else .fail (r.2.emit (.smp l none))
  else .bad

/-- `HOLD` (R86): an event; no time is kept. -/
def microHold (s : State) : MicroEnd := .ok (s.emit .hold) none

/-- `REL(L)` (R87). -/
def microRel (l : Line) (s : State) : MicroEnd :=
  if (s.line l).claimed then .ok ((s.setLine l .released).emit (.rel l)) none else .bad

/-- One micro-operation (R82 to R87). -/
def runMicro : Micro → State → MicroEnd
  | .claim l => microClaim l
  | .dir l d => microDir l d
  | .drv l v => microDrv l v
  | .smp l => microSmp l
  | .hold => microHold
  | .rel l => microRel l

/-! ### Scripts -/

/-- An item of a script (R14): a micro-operation in its phase, or a change of XST or LINK that the
command's pseudocode makes between micro-operations. -/
inductive Item where
  | micro (ph : Option Phase) (m : Micro)
  | setXst (x : Xst)
  | setLink (l : Link)
deriving DecidableEq, Repr

/-- A script (R14). -/
abbrev Script := List Item

/-- Micro-operations in one phase. -/
def inPhase (ph : Phase) (ms : List Micro) : Script := ms.map (.micro (some ph))

/-- The START script (R106). -/
def startScript : Script :=
  inPhase .start [.drv .dio .low, .hold, .drv .clk .low, .hold] ++ [.setXst .inframe]

/-- Bit slot `i` of SEND_BYTE, sending level `v` (R109). -/
def bitScript (i : Fin 8) (v : Level) : Script :=
  inPhase (.bit i) [.drv .dio v, .hold, .drv .clk .high, .hold, .drv .clk .low, .hold]

/-- The acknowledge slot of SEND_BYTE (R109). -/
def ackScript : Script :=
  inPhase .ack [.dir .dio .input, .hold, .drv .clk .high, .hold, .smp .dio, .drv .clk .low, .hold,
    .dir .dio .output, .hold]

/-- `SEND_BYTE(b)` (R109). -/
def sendByteScript (order : BitOrder) (b : Byte) : Script :=
  bitSlots.flatMap (fun i => bitScript i (levelOf (bitAt order b i))) ++ ackScript

/-- `STOP_SCRIPT` (R112). -/
def stopScript : Script :=
  inPhase .stop [.drv .dio .low, .hold, .drv .clk .high, .hold, .drv .dio .high, .hold] ++
    [.setXst .idle]

/-- `RECOVER_SCRIPT` (R113). -/
def recoverScript : Script :=
  inPhase .recover [.dir .clk .output, .hold, .drv .clk .low, .hold, .dir .dio .output, .hold,
    .drv .dio .low, .hold, .drv .clk .high, .hold, .drv .dio .high, .hold] ++ [.setXst .idle]

/-- `FRAME(bs)` (R126). -/
def frameScript (order : BitOrder) (bs : List Byte) : Script :=
  startScript ++ bs.flatMap (sendByteScript order) ++ stopScript

/-- The script of CLOSE when LINK = OPEN (R93). -/
def closeScript : Script :=
  [.micro none (.rel .clk), .micro none (.rel .dio), .setLink .closed, .setXst .idle]

/-- The script of OPEN in stages, each with the releases that follow a failure in it (R92). -/
def openStages : List (Script × Script) :=
  [([.micro none (.claim .clk)], []),
   ([.micro none (.claim .dio)], [.micro none (.rel .clk)]),
   ([.micro none (.dir .clk .output), .micro none .hold],
     [.micro none (.rel .clk), .micro none (.rel .dio)]),
   ([.micro none (.dir .dio .output), .micro none .hold],
     [.micro none (.rel .clk), .micro none (.rel .dio)]),
   ([.setLink .opened, .setXst .idle], [])]

/-! ### Reset -/

/-- A reset arrives before the next micro-operation (R166): the next pending input is a reset that is due
after no more micro-operations than have been run. -/
def State.resetDue (s : State) : Bool :=
  match s.inputs with
  | .reset n :: _ => decide (n ≤ s.seqIndex)
  | _ => false

/-- Whether the next pending input is a reset. -/
def State.resetPending (s : State) : Bool :=
  match s.inputs with
  | .reset _ :: _ => true
  | _ => false

/-- Reset (R165): every piece of state takes its reset value (R36) and `RST` is appended to the trace. The
parameters, the environment's answers, the inputs still pending and what the host has read are not the
BBM's state and stay. -/
def takeReset (s : State) : State :=
  { State.resetWith s.params with
    trace := s.trace ++ [.rst], draws := s.draws, inputs := s.inputs, hostRead := s.hostRead }

/-- The state with its next pending input taken from the queue. -/
def State.dropInput (s : State) : State := { s with inputs := s.inputs.drop 1 }

/-! ### Running a script -/

/-- How a script ends: at its end, at a failed micro-operation, both with the acknowledges sampled so far;
cut short by a reset (R166); or at a micro-operation without a meaning (R94). -/
inductive ScriptEnd where
  | done (s : State) (acks : List Bool)
  | failed (s : State) (acks : List Bool)
  | cut (s : State)
  | bad
deriving DecidableEq, Repr

/-- The acknowledge result of a sample, appended to the list (R110). -/
def addSample (acks : List Bool) (sample : Option Level) : List Bool :=
  acks ++ (sample.map ackOf).toList

/-- Runs a script, `seq` advancing by one for each micro-operation (R24, R91). -/
def runScript : Script → State → List Bool → ScriptEnd
  | [], s, acks => .done s acks
  | .setXst x :: rest, s, acks => runScript rest { s with xst := x } acks
  | .setLink l :: rest, s, acks => runScript rest { s with link := l } acks
  | .micro ph m :: rest, s, acks =>
    if s.resetDue then .cut (takeReset s.dropInput)
    else
      match runMicro m (s.enterPhase ph) with
      | .ok s' sample => runScript rest s'.advance (addSample acks sample)
      | .fail s' => .failed s'.advance acks
      | .bad => .bad

/-- Runs the stages of OPEN; a failed stage is followed by its releases (R92). -/
def runStages : List (Script × Script) → State → ScriptEnd
  | [], s => .done s []
  | (script, releases) :: rest, s =>
    match runScript script s [] with
    | .done s' _ => runStages rest s'
    | .failed s' _ =>
      match runScript releases s' [] with
      | .done s'' _ => .failed s'' []
      | e => e
    | e => e

/-! ### The end of a command -/

/-- `Abort()` (R145). -/
def abort (s : State) : State :=
  { s with
    clk := { s.clk with dir := none, lat := none }
    dio := { s.dio with dir := none, lat := none }
    xst := .aborted }

/-- Runs the script of an admitted command other than OPEN to its end (R91): OK with the acknowledges, or
after a line failure the abort and IO_ERROR (R145). -/
def perform (script : Script) (s : State) : Host.Outcome State Fault Refusal :=
  match runScript script s.beginScript [] with
  | .done s' acks => .next (finish .ok acks s'.endScript)
  | .failed s' acks => .next (finish .ioError acks (abort s').endScript)
  | .cut s' => .next s'
  | .bad => .fault .badLineOp

/-- Runs the script of an admitted OPEN (R92): a failure gives CONFIGURATION_ERROR. -/
def performOpen (s : State) : Host.Outcome State Fault Refusal :=
  match runStages openStages s.beginScript with
  | .done s' _ => .next (finish .ok [] s'.endScript)
  | .failed s' _ => .next (finish .configurationError [] s'.endScript)
  | .cut s' => .next s'
  | .bad => .fault .badLineOp

/-! ### Admission -/

/-- `Admit(w)` for a decoded command (R142), in the order of R143. -/
def admission (i : Instr) (s : State) : ResultCode :=
  match i with
  | .closeLink => .ok
  | .openLink =>
    match s.link with
    | .closed => .illegalState
    | .unopened => .ok
    | .opened => .sequenceError
  | .start => inLink fun x => if x = .idle then .ok else .sequenceError
  | .writeByte _ => inLink fun x => if x = .inframe then .ok else .sequenceError
  | .stop => inLink fun x => if x = .idle then .sequenceError else .ok
  | .writeCmd _ => inLink fun x => if x = .idle then .ok else .sequenceError
  | .writeRegBuf _ n => inLink fun x =>
    if x = .idle then (if s.params.maxPayload.val < n.toNat then .invalidArgument else .ok)
    else .sequenceError
  | .setBrightness l => inLink fun x =>
    if x = .idle then (if s.params.brightnessMax < l then .invalidArgument else .ok)
    else .sequenceError
where
  /-- With LINK = OPEN the transaction state decides; otherwise ILLEGAL_STATE (R142). -/
  inLink (f : Xst → ResultCode) : ResultCode :=
    match s.link with
    | .opened => f s.xst
    | .unopened => .illegalState
    | .closed => .illegalState

/-- Runs an admitted command, or ends a rejected one at once with its code and no event (R91, R144). -/
def ifAdmitted (i : Instr) (s : State) (run : State → Host.Outcome State Fault Refusal) :
    Host.Outcome State Fault Refusal :=
  match admission i s with
  | .ok => run s
  | code => .next (finish code [] s)

/-- The end of an illegal command word (R69, R144). -/
def endIllegal (s : State) : State := finish .illegalCommand [] s

end Sys2Proof.Machine
end

