-- ==== Sys2Proof/Machine/Framed.lean ====
section
/-! DEFINITION. The framed commands WRITE_CMD, WRITE_REG_BUF and SET_BRIGHTNESS
(42_protocol.md R127, R128, R129). -/

namespace Sys2Proof.Machine

/-- WRITE_CMD: one frame of the command byte (R127). -/
def execWriteCmd (c : Byte) (s : State) : Host.Outcome State Fault Refusal :=
  ifAdmitted (.writeCmd c) s (perform (frameScript s.bitOrder [c]))

/-- WRITE_REG_BUF: one frame of the address byte and the payload (R128). -/
def execWriteRegBuf (r n : Byte) (s : State) : Host.Outcome State Fault Refusal :=
  ifAdmitted (.writeRegBuf r n) s (perform (frameScript s.bitOrder (regBufBytes s r n)))

/-- SET_BRIGHTNESS: one frame of the brightness command and the level (R129). -/
def execSetBrightness (l : Byte) (s : State) : Host.Outcome State Fault Refusal :=
  ifAdmitted (.setBrightness l) s (perform (frameScript s.bitOrder (brightnessBytes s.params l)))

end Sys2Proof.Machine
end

