-- ==== Sys2Proof/Machine/Link.lean ====
section
/-! DEFINITION. The link commands OPEN and CLOSE (40_lines.md R92, R93). -/

namespace Sys2Proof.Machine

/-- OPEN: claim both lines and bring the bus to idle (R92). -/
def execOpen (s : State) : Host.Outcome State Fault Refusal :=
  ifAdmitted .openLink s performOpen

/-- CLOSE: release both lines; without effect when LINK is not OPEN (R93). -/
def execClose (s : State) : Host.Outcome State Fault Refusal :=
  ifAdmitted .closeLink s fun s =>
    match s.link with
    | .opened => perform closeScript s
    | .unopened => .next (finish .ok [] s)
    | .closed => .next (finish .ok [] s)

end Sys2Proof.Machine
end

