-- ==== Sys2Proof/Machine/Transport.lean ====
section
/-! DEFINITION. The transport commands START, WRITE_BYTE and STOP (41_transport.md R106, R111, R114). -/

namespace Sys2Proof.Machine

/-- START: the start condition (R106). -/
def execStart (s : State) : Host.Outcome State Fault Refusal :=
  ifAdmitted .start s (perform startScript)

/-- WRITE_BYTE: one byte inside an open transaction (R111). -/
def execWriteByte (b : Byte) (s : State) : Host.Outcome State Fault Refusal :=
  ifAdmitted (.writeByte b) s (perform (sendByteScript s.bitOrder b))

/-- The script of STOP in a transaction state: the recovery stop when ABORTED (R114). -/
def stopScriptIn (x : Xst) : Script :=
  match x with
  | .aborted => recoverScript
  | .inframe => stopScript
  | .idle => stopScript

/-- STOP: end the transaction, or recover after a failure (R114). -/
def execStop (s : State) : Host.Outcome State Fault Refusal :=
  ifAdmitted .stop s (perform (stopScriptIn s.xst))

end Sys2Proof.Machine
end

