-- ==== Sys2Proof/Machine/Dispatch.lean ====
section
/-! DEFINITION. One arm per command (30_encoding.md R66). -/

namespace Sys2Proof.Machine

def exec (i : Instr) (s : State) : Host.Outcome State Fault Refusal :=
  match i with
  | .openLink => Sys2Proof.Machine.execOpen s
  | .closeLink => Sys2Proof.Machine.execClose s
  | .start => Sys2Proof.Machine.execStart s
  | .writeByte b => Sys2Proof.Machine.execWriteByte b s
  | .stop => Sys2Proof.Machine.execStop s
  | .writeCmd c => Sys2Proof.Machine.execWriteCmd c s
  | .writeRegBuf r n => Sys2Proof.Machine.execWriteRegBuf r n s
  | .setBrightness l => Sys2Proof.Machine.execSetBrightness l s

end Sys2Proof.Machine
end

