-- ==== Sys2Proof/Machine/HostPort.lean ====
section
/-! DEFINITION. The register window as the host sees it (10_state.md R29 to R35, 20_memory.md R50 to R59):
which register an offset is, what it reads, what a write to it does, which accesses are refused (R51), and
how the next pending input is taken up. -/

namespace Sys2Proof.Machine

/-- The registers of R29. -/
inductive Reg where
  | cmd
  | status
  | ack
  | config
  | txbuf (k : Fin 16)
deriving DecidableEq, Repr

/-- The offset of a register (R29). -/
def Reg.offset : Reg → Nat
  | .cmd => 0x00
  | .status => 0x04
  | .ack => 0x08
  | .config => 0x0C
  | .txbuf k => 0x40 + 4 * k.val

/-- The register at an aligned offset of the window; none at a reserved offset (R29, R35). -/
def regAt (offset : Nat) : Option Reg :=
  match offset with
  | 0x00 => some .cmd
  | 0x04 => some .status
  | 0x08 => some .ack
  | 0x0C => some .config
  | _ => if 0x40 ≤ offset ∧ offset < windowSize then some (.txbuf (Fin.ofNat 16 ((offset - 0x40) / 4))) else none

/-- What a 32-bit read returns (R30 to R35). -/
def readReg (r : Option Reg) (s : State) : Word :=
  match r with
  | some .cmd => 0
  | some .status => statusWord s
  | some .ack => s.ackv
  | some .config => configWord s
  | some (.txbuf k) => s.txbuf[k].zeroExtend 32
  | none => 0

/-- What a 32-bit write to a register other than CMD does (R31 to R35, R56): CONFIG and TXBUF take the
bits that are theirs; STATUS, ACK and reserved offsets ignore it. A write to CMD is a command and is not
served here. -/
def writeReg (r : Option Reg) (v : Word) (s : State) : State :=
  match r with
  | some .cmd => s
  | some .status => s
  | some .ack => s
  | some .config => { s with bitOrder := orderOfWord v, hold := v.extractLsb' 16 16 }
  | some (.txbuf k) => { s with txbuf := s.txbuf.set k (v.extractLsb' 0 8) }
  | none => s

/-- Why an access is refused (R51, R157); none if it is supported. -/
def accessRefusal (width : Nat) (offset : Int) : Option Refusal :=
  if width ≠ 4 then some .accessWidth
  else if offset < 0 ∨ (windowSize : Int) ≤ offset then some .accessOutsideWindow
  else if offset % 4 ≠ 0 then some .accessMisaligned
  else none

/-- What the next pending input asks of the BBM. -/
inductive Request where
  /-- No input is pending. -/
  | none
  /-- A reset, the input taken. -/
  | reset (s : State)
  /-- An access that is not specified. -/
  | refused (r : Refusal)
  /-- A register access, already served. -/
  | served (s : State)
  /-- A write of a command word to CMD, the input taken. -/
  | command (w : Word) (s : State)
deriving DecidableEq, Repr

/-- Takes up a supported access at an offset; `s` has the input already taken. -/
def serveAccess (a : Access) (s : State) : Request :=
  match a with
  | .read width offset =>
    match accessRefusal width offset with
    | some r => .refused r
    | none => .served { s with hostRead := some (readReg (regAt offset.toNat) s) }
  | .write width offset v =>
    match accessRefusal width offset with
    | some r => .refused r
    | none =>
      match regAt offset.toNat with
      | some .cmd => .command v s
      | r => .served (writeReg r v s)

/-- Takes up the next pending input (R59: in the host's order). -/
def nextRequest (s : State) : Request :=
  match s.inputs with
  | [] => .none
  | .reset _ :: _ => .reset s.dropInput
  | .access a :: _ => serveAccess a s.dropInput

/-- The access `MemRead(addr, 4)` (R13, R50). -/
def memRead (p : Params) (addr : Nat) : Access := .read 4 ((addr : Int) - p.bbmBase)

/-- The access `MemWrite(addr, 4, v)` (R13, R50). -/
def memWrite (p : Params) (addr : Nat) (v : Word) : Access := .write 4 ((addr : Int) - p.bbmBase) v

/-- A write of a command word to CMD: what runs a command (R30, R91). -/
def cmdWrite (w : Word) : HostInput := .access (.write 4 0 w)

end Sys2Proof.Machine
end

