-- ==== Sys2Proof/Machine/Step.lean ====
section
/-! DEFINITION. One step: the BBM takes up the next pending input, a host access or a reset (70_reset R165,
20_memory.md R55, R59). A CMD write runs its command to the end (40_lines.md R91). -/

namespace Sys2Proof.Machine

/-- One step. With no input pending the BBM waits for a host access (R165). -/
def step (s : State) : Host.Outcome State Fault Refusal :=
  match nextRequest s with
  | .none => .next s
  | .reset s' => .next (takeReset s')
  | .refused r => .refused r
  | .served s' => .next s'
  | .command w s' =>
    match decode w with
    | .command i => exec i s'
    | .illegal _ => .next (endIllegal s')

/-- The state whose next pending input is the write of the instruction word to CMD, which is where a command
comes from (R30). The word is the number `w` of `nbits` bits; the bits above are 0 (log entry 2). -/
def State.withFetchWord (s : State) (nbits w : Nat) : State :=
  { s with inputs := cmdWrite (BitVec.ofNat 32 (w % 2 ^ nbits)) :: s.inputs }

end Sys2Proof.Machine
end

