-- ==== Sys2Proof/Machine/Assembler.lean ====
section
/-! DEFINITION. The assembler statements of 30_encoding.md R71 and the pseudo-instructions of R72, as the
host accesses they stand for. Literals are naturals, and one that does not fit its field is an assembly
error (R71). -/

namespace Sys2Proof.Machine

/-- A statement (R71) or a pseudo-instruction (R72). -/
inductive Stmt where
  | write (r : Reg) (v : Nat)
  | read (r : Reg)
  | openStmt
  | closeStmt
  | startStmt
  | wrbyte (b : Nat)
  | stopStmt
  | wrcmd (c : Nat)
  | wrreg (r n : Nat)
  | setbri (l : Nat)
  | cfg (order : BitOrder) (hold : Nat)
  | txload (bs : List Nat)
  | wrregbuf (r : Nat) (bs : List Nat)
  | recover
  | result
deriving DecidableEq, Repr

/-- Every literal fits its field, and no more payload bytes are given than TXBUF has entries; TXLOAD names
at least one byte (R71, R72; log entry 17). -/
def stmtWellFormed : Stmt → Bool
  | .write _ v => literalFits 32 v
  | .read _ => true
  | .openStmt => true
  | .closeStmt => true
  | .startStmt => true
  | .wrbyte b => literalFits 8 b
  | .stopStmt => true
  | .wrcmd c => literalFits 8 c
  | .wrreg r n => literalFits 8 r && literalFits 8 n
  | .setbri l => literalFits 8 l
  | .cfg _ h => literalFits 16 h
  | .txload bs => decide (1 ≤ bs.length ∧ bs.length ≤ 16) && bs.all (literalFits 8)
  | .wrregbuf r bs => literalFits 8 r && decide (bs.length ≤ 16) && bs.all (literalFits 8)
  | .recover => true
  | .result => true

/-- `W NAME, v` (R71). -/
def assembleWrite (p : Params) (r : Reg) (v : Nat) : Access :=
  memWrite p (p.bbmBase + r.offset) (BitVec.ofNat 32 v)

/-- `R NAME` (R71). -/
def assembleRead (p : Params) (r : Reg) : Access := memRead p (p.bbmBase + r.offset)

/-- The writes of TXLOAD from entry `k` on (R72). -/
def txloadFrom (p : Params) : Nat → List Nat → List Access
  | _, [] => []
  | k, b :: bs => assembleWrite p (.txbuf (Fin.ofNat 16 k)) b :: txloadFrom p (k + 1) bs

/-- The accesses of a statement whose literals fit (R71, R72). -/
def expandStmt (p : Params) : Stmt → List Access
  | .write r v => [assembleWrite p r v]
  | .read r => [assembleRead p r]
  | .openStmt => [assembleWrite p .cmd 0x10000000]
  | .closeStmt => [assembleWrite p .cmd 0x20000000]
  | .startStmt => [assembleWrite p .cmd 0x30000000]
  | .wrbyte b => [assembleWrite p .cmd (0x40000000 ||| b)]
  | .stopStmt => [assembleWrite p .cmd 0x50000000]
  | .wrcmd c => [assembleWrite p .cmd (0x60000000 ||| c)]
  | .wrreg r n => [assembleWrite p .cmd (0x70000000 ||| (n <<< 16) ||| r)]
  | .setbri l => [assembleWrite p .cmd (0x80000000 ||| l)]
  | .cfg .msbFirst h => [assembleWrite p .config ((h <<< 16) ||| 0)]
  | .cfg .lsbFirst h => [assembleWrite p .config ((h <<< 16) ||| 1)]
  | .txload bs => txloadFrom p 0 bs
  | .wrregbuf r bs =>
    txloadFrom p 0 bs ++ [assembleWrite p .cmd (0x70000000 ||| (bs.length <<< 16) ||| r)]
  | .recover => [assembleWrite p .cmd 0x50000000]
  | .result => [assembleRead p .status, assembleRead p .ack]

/-- The accesses of a statement; none is an assembly error (R71). -/
def assemble (p : Params) (st : Stmt) : Option (List Access) :=
  if stmtWellFormed st then some (expandStmt p st) else none

end Sys2Proof.Machine
end

