-- ==== Sys2Proof/Safety.lean ====
section
/-! DEFINITION. The terms in which claims are made: the resting states of 10_state.md R25 and the invariant,
what an observer reads off a trace (40_lines.md R80, R90), and tables of the spec transcribed for
comparison (60_exceptions.md R142, 41_transport.md R115, R116). None of it is used by the machine. -/

namespace Sys2Proof.Machine

/-! ### Resting states -/

/-- A claimed line driven at a level. -/
def LineState.driven (v : Level) : LineState := ⟨true, some .output, some v⟩

/-- A claimed line after a line fault (R145). -/
def LineState.unknown : LineState := ⟨true, none, none⟩

/-- LINK = UNOPENED or CLOSED: neither line claimed (R25). -/
abbrev State.LinesReleased (s : State) : Prop :=
  s.link ≠ .opened ∧ s.xst = .idle ∧ s.clk = .released ∧ s.dio = .released

/-- LINK = OPEN, XST = IDLE: both lines driven HIGH (R25). -/
abbrev State.BusIdle (s : State) : Prop :=
  s.link = .opened ∧ s.xst = .idle ∧ s.clk = .driven .high ∧ s.dio = .driven .high

/-- LINK = OPEN, XST = INFRAME: CLK driven LOW, DIO driven (R25). -/
abbrev State.InFrame (s : State) : Prop :=
  s.link = .opened ∧ s.xst = .inframe ∧ s.clk = .driven .low ∧
    (s.dio = .driven .low ∨ s.dio = .driven .high)

/-- LINK = OPEN, XST = ABORTED: both lines claimed and UNKNOWN (R25). -/
abbrev State.BusAborted (s : State) : Prop :=
  s.link = .opened ∧ s.xst = .aborted ∧ s.clk = .unknown ∧ s.dio = .unknown

/-- The table of R25. -/
abbrev State.Resting (s : State) : Prop :=
  s.LinesReleased ∨ s.BusIdle ∨ s.InFrame ∨ s.BusAborted

/-- ACKCNT is at most 17 and the bits of ACKV from ACKCNT on are 0 (R26, R32). -/
abbrev State.ResultOk (s : State) : Prop := s.ackcnt ≤ 17 ∧ s.ackv.toNat < 2 ^ s.ackcnt

/-- The invariant: the resting table (R25), no script running between commands (R24), and the bounds of
the result registers (R26). -/
abbrev State.Inv (s : State) : Prop := s.Resting ∧ s.sequencer = none ∧ s.ResultOk

/-! ### The environment's answers -/

/-- The answer to the `k`-th CLAIM from now (R39). -/
def State.claimAnswer (s : State) (k : Nat) : Bool := s.draws.claimOk.answer Config.freeClaimOk k

/-- The answer to the `k`-th line operation from now (R39). -/
def State.opAnswer (s : State) (k : Nat) : Bool := s.draws.opOk.answer Config.freeOpOk k

/-- The level of the `k`-th sample from now (R39). -/
def State.levelAnswer (s : State) (k : Nat) : Level := s.draws.dioLevel.answer Config.freeDioLevel k

/-- The next `n` line operations succeed. -/
abbrev State.OpsSucceed (s : State) (n : Nat) : Prop := ∀ k < n, s.opAnswer k = true

/-- The environment after `c` claims, `o` line operations and `l` samples. -/
def Draws.used (d : Draws) (c o l : Nat) : Draws :=
  ⟨d.claimOk.after c, d.opOk.after o, d.dioLevel.after l⟩

/-! ### Reading a trace -/

/-- The event of a DIR, DRV or SMP, the micro-operations that draw `op_ok` (R39). -/
def LineEvent.isLineOp : LineEvent → Bool
  | .dir _ _ _ => true
  | .drv _ _ _ => true
  | .smp _ _ => true
  | .claim _ _ => false
  | .hold => false
  | .rel _ => false
  | .rst => false

/-- The event a micro-operation emits when it fails in place of the given one (R80); HOLD and REL cannot. -/
def LineEvent.failedForm : LineEvent → LineEvent
  | .claim l _ => .claim l false
  | .dir l d _ => .dir l d false
  | .drv l v _ => .drv l v false
  | .smp l _ => .smp l none
  | .hold => .hold
  | .rel l => .rel l
  | .rst => .rst

/-- The mark `!` (R80). -/
def LineEvent.failed : LineEvent → Bool
  | .claim _ ok => !ok
  | .dir _ _ ok => !ok
  | .drv _ _ ok => !ok
  | .smp _ v => v.isNone
  | .hold => false
  | .rel _ => false
  | .rst => false

/-- The levels of successful samples, as acknowledge results in order (R110). -/
def sampledAcks (evs : List LineEvent) : List Bool :=
  evs.filterMap fun e =>
    match e with
    | .smp _ (some v) => some (ackOf v)
    | _ => none

/-- Not a DIR(CLK, IN) and not a sample of CLK (R89 point 2). REL(CLK) is no such event: it gives the pin
up (R87). -/
def LineEvent.notClkInOrSample : LineEvent → Bool
  | .dir .clk .input _ => false
  | .smp .clk _ => false
  | _ => true

/-- A successful DIR or DRV, which a HOLD must follow (R86). -/
def LineEvent.needsHold : LineEvent → Bool
  | .dir _ _ ok => ok
  | .drv _ _ ok => ok
  | _ => false

/-- Every successful DIR and DRV is followed by exactly one HOLD, and no other event is (R86). -/
def holdDiscipline : List LineEvent → Bool
  | [] => true
  | e :: rest =>
    (e.needsHold == (rest.head? == some .hold)) && holdDiscipline rest

/-- The fields of CLK and DIO, in this order. -/
abbrev Wires := LineState × LineState

/-- The line fields after an event (R82 to R87, R165). -/
def applyEvent (w : Wires) : LineEvent → Wires
  | .claim .clk true => (⟨true, some .input, some .high⟩, w.2)
  | .claim .dio true => (w.1, ⟨true, some .input, some .high⟩)
  | .dir .clk d true => ({ w.1 with dir := some d }, w.2)
  | .dir .dio d true => (w.1, { w.2 with dir := some d })
  | .drv .clk v true => ({ w.1 with lat := some v }, w.2)
  | .drv .dio v true => (w.1, { w.2 with lat := some v })
  | .rel .clk => (.released, w.2)
  | .rel .dio => (w.1, .released)
  | .rst => (.released, .released)
  | .claim _ false => w
  | .dir _ _ false => w
  | .drv _ _ false => w
  | .smp _ _ => w
  | .hold => w

/-- An event that can change the level on DIO (R90). -/
def LineEvent.changesDio : LineEvent → Bool
  | .dir .dio _ ok => ok
  | .drv .dio _ ok => ok
  | _ => false

/-- DIO falls while CLK is HIGH: the start edge (R90). -/
def startEdge (w : Wires) (e : LineEvent) : Bool :=
  e == .drv .dio .low true && w == (.driven .high, .driven .high)

/-- DIO rises while CLK is HIGH: the stop edge (R90). -/
def stopEdge (w : Wires) (e : LineEvent) : Bool :=
  e == .drv .dio .high true && w == (.driven .high, .driven .low)

/-- The protocol invariant (R90): DIO can change only while CLK is driven LOW, but for one start edge, which
may stand at position `startAt` alone, and one stop edge, at position `stopAt` alone. `k` is the position of
the first event of the list. -/
def protocolSafe (startAt stopAt : Option Nat) : Nat → Wires → List LineEvent → Bool
  | _, _, [] => true
  | k, w, e :: rest =>
    (!e.changesDio || w.1 == .driven .low || (startAt == some k && startEdge w e) ||
        (stopAt == some k && stopEdge w e)) &&
      protocolSafe startAt stopAt (k + 1) (applyEvent w e) rest

/-- The levels on CLK and DIO after each event, when no other party drives them (R81). -/
def undrivenLevels : Wires → List LineEvent → List (Option Level × Option Level)
  | _, [] => []
  | w, e :: rest =>
    let w' := applyEvent w e
    (wire w'.1 none, wire w'.2 none) :: undrivenLevels w' rest

/-! ### What the target receives -/

/-- What a target makes of the wire (R80): the start and stop transitions, the bit-pulses with the level of
DIO, and the ack-pulses. -/
inductive WireSymbol where
  | start
  | bit (v : Level)
  | ackPulse
  | stop
deriving DecidableEq, Repr

/-- A target following the events: the levels driven, whether DIO is handed over, and whether CLK rose. -/
structure Receiver where
  clk : Level
  dio : Level
  handedOver : Bool
  rose : Bool
deriving DecidableEq, Repr

/-- A target on an idle bus. -/
def Receiver.idle : Receiver := ⟨.high, .high, false, false⟩

/-- One event as the target sees it. A pulse is a rise of CLK followed by a fall (R80). -/
def Receiver.next (r : Receiver) : LineEvent → Receiver × List WireSymbol
  | .drv .dio v true =>
    ({ r with dio := v },
      match r.clk, r.dio, v with
      | .high, .high, .low => [.start]
      | .high, .low, .high => [.stop]
      | _, _, _ => [])
  | .drv .clk .high true => ({ r with clk := .high, rose := true }, [])
  | .drv .clk .low true =>
    ({ r with clk := .low, rose := false },
      if r.rose then (if r.handedOver then [.ackPulse] else [.bit r.dio]) else [])
  | .dir .dio d true => ({ r with handedOver := decide (d = .input) }, [])
  | _ => (r, [])

/-- The symbols of a list of events, in order. -/
def wireSymbols : Receiver → List LineEvent → List WireSymbol
  | _, [] => []
  | r, e :: rest => (r.next e).2 ++ wireSymbols (r.next e).1 rest

/-- A target's shift register takes in a bit, in the order the bits are sent (R107, R108). -/
def shiftIn (order : BitOrder) (acc : Byte) (v : Level) : Byte :=
  let bit : Byte := if v = .high then 1 else 0
  match order with
  | .msbFirst => acc <<< 1 ||| bit
  | .lsbFirst => acc >>> 1 ||| bit <<< 7

/-- The bytes a target has shifted in at each ack-pulse. -/
def receivedBytes (order : BitOrder) : Byte → List WireSymbol → List Byte
  | _, [] => []
  | acc, .bit v :: rest => receivedBytes order (shiftIn order acc v) rest
  | acc, .ackPulse :: rest => acc :: receivedBytes order 0 rest
  | acc, .start :: rest => receivedBytes order acc rest
  | acc, .stop :: rest => receivedBytes order acc rest

/-- The kind of a symbol, its level left out. -/
def WireSymbol.isBit : WireSymbol → Bool
  | .bit _ => true
  | _ => false

/-! ### The events of a successful command -/

/-- The events of OPEN (R92). -/
def openEvents : List LineEvent :=
  [.claim .clk true, .claim .dio true, .dir .clk .output true, .hold, .dir .dio .output true, .hold]

/-- The events of CLOSE with LINK = OPEN (R93). -/
def closeEvents : List LineEvent := [.rel .clk, .rel .dio]

/-- The events of START (R106). -/
def startEvents : List LineEvent :=
  [.drv .dio .low true, .hold, .drv .clk .low true, .hold]

/-- The events of one bit slot at level `v` (R109). -/
def bitEvents (v : Level) : List LineEvent :=
  [.drv .dio v true, .hold, .drv .clk .high true, .hold, .drv .clk .low true, .hold]

/-- The events of the acknowledge slot in which level `v` is sampled (R109). -/
def ackEvents (v : Level) : List LineEvent :=
  [.dir .dio .input true, .hold, .drv .clk .high true, .hold, .smp .dio (some v),
    .drv .clk .low true, .hold, .dir .dio .output true, .hold]

/-- The 57 events of a byte (R109). -/
def sendByteEvents (order : BitOrder) (b : Byte) (v : Level) : List LineEvent :=
  bitSlots.flatMap (fun i => bitEvents (levelOf (bitAt order b i))) ++ ackEvents v

/-- The events of the bytes of a frame, each with the level sampled for it (R126). -/
def bytesEvents (order : BitOrder) : List Byte → (Nat → Level) → List LineEvent
  | [], _ => []
  | b :: bs, levels => sendByteEvents order b (levels 0) ++ bytesEvents order bs fun k => levels (k + 1)

/-- The events of a normal stop (R112). -/
def stopEvents : List LineEvent :=
  [.drv .dio .low true, .hold, .drv .clk .high true, .hold, .drv .dio .high true, .hold]

/-- The events of the recovery stop (R113). -/
def recoverEvents : List LineEvent :=
  [.dir .clk .output true, .hold, .drv .clk .low true, .hold, .dir .dio .output true, .hold,
    .drv .dio .low true, .hold, .drv .clk .high true, .hold, .drv .dio .high true, .hold]

/-- The events of a frame (R126). -/
def frameEvents (order : BitOrder) (bs : List Byte) (levels : Nat → Level) : List LineEvent :=
  startEvents ++ bytesEvents order bs levels ++ stopEvents

/-- The events an admitted command emits when nothing fails (R92, R93, R106 to R114, R126 to R129). -/
def commandEvents (s : State) : Instr → List LineEvent
  | .openLink => openEvents
  | .closeLink => closeEvents
  | .start => startEvents
  | .writeByte b => sendByteEvents s.bitOrder b (s.levelAnswer 0)
  | .stop => if s.xst = .aborted then recoverEvents else stopEvents
  | .writeCmd c => frameEvents s.bitOrder [c] s.levelAnswer
  | .writeRegBuf r n =>
    frameEvents s.bitOrder ((s.params.addrHeader ||| r) :: s.txbuf.toList.take n.toNat) s.levelAnswer
  | .setBrightness l =>
    frameEvents s.bitOrder [s.params.brightnessCmd, s.params.brightnessCmd ||| l] s.levelAnswer

/-- The acknowledges of the first `n` samples from now (R110). -/
def State.acksFromNow (s : State) (n : Nat) : List Bool :=
  (List.range n).map fun k => ackOf (s.levelAnswer k)

/-- The state a frame of bytes `bs` leaves when no line operation fails: both lines driven HIGH, XST = IDLE,
one acknowledge a byte (R126 to R129). -/
def State.afterFrame (s : State) (bs : List Byte) : State :=
  { s with
    clk := .driven .high
    dio := .driven .high
    xst := .idle
    sequencer := none
    err := .ok
    ackcnt := bs.length
    ackv := BitVec.ofNat 32 (ackSum (s.acksFromNow bs.length))
    trace := s.trace ++ frameEvents s.bitOrder bs s.levelAnswer
    draws := s.draws.used 0 (5 + 29 * bs.length) bs.length }

/-- The state of a rejected command: only the result changes (R144). -/
def State.rejected (s : State) (code : ResultCode) : State :=
  { s with err := code, ackcnt := 0, ackv := 0 }

/-- The state of an OPEN that failed with events `evs`, after `c` claims and `o` line operations: nothing is
left claimed (R92). -/
def State.openFailed (s : State) (evs : List LineEvent) (c o : Nat) : State :=
  { s with
    sequencer := none, err := .configurationError, ackcnt := 0, ackv := 0,
    trace := s.trace ++ evs, draws := s.draws.used c o 0 }

/-- The state after a line failure: both lines UNKNOWN, XST = ABORTED, IO_ERROR, and the acknowledges sampled
before it (R145). `evs` are the events, the failed one the last; `d` are the answers left. -/
def State.afterAbort (s : State) (evs : List LineEvent) (d : Draws) : State :=
  { s with
    clk := .unknown
    dio := .unknown
    xst := .aborted
    sequencer := none
    err := .ioError
    ackcnt := (sampledAcks evs).length
    ackv := BitVec.ofNat 32 (ackSum (sampledAcks evs))
    trace := s.trace ++ evs
    draws := d }

/-! ### Tables of the spec -/

/-- `Admit(w)` on a command word (R142). -/
def admitWord (w : Word) (s : State) : ResultCode :=
  match decode w with
  | .illegal _ => .illegalCommand
  | .command i => admission i s

/-- The width of an access in bytes. -/
def Access.width : Access → Nat
  | .read width _ => width
  | .write width _ _ => width

/-- The offset of an access in the window. -/
def Access.offset : Access → Int
  | .read _ offset => offset
  | .write _ offset _ => offset

/-- The columns of the table of R142. -/
inductive Column where
  | unopened
  | closed
  | idle
  | inframe
  | aborted
deriving DecidableEq, Repr

/-- The cells of the table of R142. -/
inductive Cell where
  | run
  | noEffect
  | reject (code : ResultCode)
deriving DecidableEq, Repr

/-- The column of a state (R142). -/
def columnOf (s : State) : Column :=
  match s.link, s.xst with
  | .unopened, _ => .unopened
  | .closed, _ => .closed
  | .opened, .idle => .idle
  | .opened, .inframe => .inframe
  | .opened, .aborted => .aborted

/-- The table of R142, row by row. -/
def admissionCell (p : Params) : Instr → Column → Cell
  | .openLink, .unopened => .run
  | .openLink, .closed => .reject .illegalState
  | .openLink, _ => .reject .sequenceError
  | .closeLink, .unopened => .noEffect
  | .closeLink, .closed => .noEffect
  | .closeLink, _ => .run
  | .start, .unopened => .reject .illegalState
  | .start, .closed => .reject .illegalState
  | .start, .idle => .run
  | .start, _ => .reject .sequenceError
  | .writeByte _, .unopened => .reject .illegalState
  | .writeByte _, .closed => .reject .illegalState
  | .writeByte _, .inframe => .run
  | .writeByte _, _ => .reject .sequenceError
  | .stop, .unopened => .reject .illegalState
  | .stop, .closed => .reject .illegalState
  | .stop, .idle => .reject .sequenceError
  | .stop, _ => .run
  | .writeCmd _, .unopened => .reject .illegalState
  | .writeCmd _, .closed => .reject .illegalState
  | .writeCmd _, .idle => .run
  | .writeCmd _, _ => .reject .sequenceError
  | .writeRegBuf _ _, .unopened => .reject .illegalState
  | .writeRegBuf _ _, .closed => .reject .illegalState
  | .writeRegBuf _ n, .idle =>
    if n.toNat ≤ p.maxPayload.val then .run else .reject .invalidArgument
  | .writeRegBuf _ _, _ => .reject .sequenceError
  | .setBrightness _, .unopened => .reject .illegalState
  | .setBrightness _, .closed => .reject .illegalState
  | .setBrightness l, .idle =>
    if l.toNat ≤ p.brightnessMax.toNat then .run else .reject .invalidArgument
  | .setBrightness _, _ => .reject .sequenceError

/-- The command is one of WRITE_CMD, WRITE_REG_BUF, SET_BRIGHTNESS. -/
def isFramed : Instr → Bool
  | .writeCmd _ => true
  | .writeRegBuf _ _ => true
  | .setBrightness _ => true
  | _ => false

/-- The script that "run" stands for in the table of R142. -/
def scriptRun (i : Instr) (s : State) : Host.Outcome State Fault Refusal :=
  match i with
  | .openLink => performOpen s
  | .closeLink => perform closeScript s
  | .start => perform startScript s
  | .writeByte b => perform (sendByteScript s.bitOrder b) s
  | .stop => perform (if s.xst = .aborted then recoverScript else stopScript) s
  | .writeCmd c => perform (frameScript s.bitOrder [c]) s
  | .writeRegBuf r n => perform (frameScript s.bitOrder (regBufBytes s r n)) s
  | .setBrightness l => perform (frameScript s.bitOrder (brightnessBytes s.params l)) s

/-- The rows of the table of R115: transaction state, command and result code, with the state after. -/
def xstRow (x : Xst) (i : Instr) (code : ResultCode) (x' : Xst) : Bool :=
  match i, x, code with
  | .closeLink, _, .ok => x' == .idle
  | .start, .idle, .ok => x' == .inframe
  | .start, .idle, .ioError => x' == .aborted
  | .writeByte _, .inframe, .ok => x' == .inframe
  | .writeByte _, .inframe, .ioError => x' == .aborted
  | .stop, .inframe, .ok => x' == .idle
  | .stop, .inframe, .ioError => x' == .aborted
  | .stop, .aborted, .ok => x' == .idle
  | .stop, .aborted, .ioError => x' == .aborted
  | i, .idle, .ok => isFramed i && x' == .idle
  | i, .idle, .invalidArgument => isFramed i && x' == .idle
  | i, .idle, .ioError => isFramed i && x' == .aborted
  | .closeLink, _, _ => false
  | .start, .idle, _ => false
  | .writeByte _, .inframe, _ => false
  | .stop, .inframe, _ => false
  | .stop, .aborted, _ => false
  | i, x, .sequenceError => !(isFramed i && x == .idle) && x' == x
  | _, _, _ => false

/-- The micro-operations of an admitted command that runs to its end (R116). -/
def commandLength (s : State) : Instr → Nat
  | .openLink => 6
  | .closeLink => 2
  | .start => 4
  | .writeByte _ => 57
  | .stop => if s.xst = .aborted then 12 else 6
  | .writeCmd _ => 67
  | .writeRegBuf _ n => 67 + 57 * n.toNat
  | .setBrightness _ => 124

/-- The HOLDs of an admitted command that runs to its end (R116, R178). -/
def commandHolds (s : State) : Instr → Nat
  | .openLink => 2
  | .closeLink => 0
  | .start => 2
  | .writeByte _ => 28
  | .stop => if s.xst = .aborted then 6 else 3
  | .writeCmd _ => 33
  | .writeRegBuf _ n => 33 + 28 * n.toNat
  | .setBrightness _ => 61

/-- The line operations (DIR, DRV, SMP) of an admitted command that runs to its end (R116). -/
def commandLineOps (s : State) : Instr → Nat
  | .openLink => 2
  | .closeLink => 0
  | .start => 2
  | .writeByte _ => 29
  | .stop => if s.xst = .aborted then 6 else 3
  | .writeCmd _ => 34
  | .writeRegBuf _ n => 34 + 29 * n.toNat
  | .setBrightness _ => 63

/-- Where in the events of a command the start edge stands: its first event, if it runs the START script
(R90, R106, R126). -/
def startEdgeAt : Instr → Option Nat
  | .start => some 0
  | .writeCmd _ => some 0
  | .writeRegBuf _ _ => some 0
  | .setBrightness _ => some 0
  | .openLink => none
  | .closeLink => none
  | .writeByte _ => none
  | .stop => none

/-- Where in the events of a command the stop edge stands: its last DRV, the event before its last HOLD, if
it runs the STOP script (R90, R112, R126). -/
def stopEdgeAt (s : State) (i : Instr) : Option Nat :=
  match i with
  | .stop => some (commandLength s i - 2)
  | .writeCmd _ => some (commandLength s i - 2)
  | .writeRegBuf _ _ => some (commandLength s i - 2)
  | .setBrightness _ => some (commandLength s i - 2)
  | .openLink => none
  | .closeLink => none
  | .start => none
  | .writeByte _ => none

/-- The least duration of one HOLD, `CONFIG.HOLD * HOLD_UNIT` (R86, R152). -/
def holdFloor (s : State) : Nat := s.hold.toNat * s.params.holdUnit

/-- The lower bound on the duration of a list of events emitted under the CONFIG of `s` (R178). -/
def leastDuration (s : State) (evs : List LineEvent) : Nat := evs.count .hold * holdFloor s

end Sys2Proof.Machine
end

