-- ==== Sys2Proof/Certificates/Slice0/Obligations.lean ====
section
/-! DEFINITION. The statements for the provers. Each docstring names the rule or section of spec/ it
formalises; a clause that rests on a choice of the model names the log entry. -/

open Sys2Proof Sys2Proof.Machine

/-! ### Encoding -/

/-- Every command decodes from its own word, whatever its operands (R65 to R68). -/
def Obligations.DecodeOfEncode : Prop :=
  ∀ i : Instr, i.wellFormed = true → decode (encode i) = .command i

/-- A word that decodes to a command is the word of that command: no bit of a legal word is dropped. -/
def Obligations.EncodeOfDecode : Prop :=
  ∀ (w : Word) (i : Instr), decode w = .command i → encode i = w

/-- The decoder by mask and match (R68) accepts exactly the words that are legal field by field (R65, R69). -/
def Obligations.DecodeAcceptsExactlyLegalWords : Prop :=
  ∀ w : Word, (∃ i, decode w = .command i) ↔ Word.legal w = true

/-- One word of each row of R68, written out from its pattern, decodes to its command. -/
def Obligations.WordsOfTheTableDecode : Prop :=
  decode 0x10000000 = .command .openLink ∧
  decode 0x20000000 = .command .closeLink ∧
  decode 0x30000000 = .command .start ∧
  decode 0x400000C1 = .command (.writeByte 0xC1) ∧
  decode 0x50000000 = .command .stop ∧
  decode 0x600000AA = .command (.writeCmd 0xAA) ∧
  decode 0x700500C0 = .command (.writeRegBuf 0xC0 5) ∧
  decode 0x80000007 = .command (.setBrightness 7) ∧
  decode 0x00000000 = .illegal .reservedOp ∧
  decode 0x40000100 = .illegal .reservedBits

/-! ### Steps -/

/-- A CMD write of a word that decodes to `i` runs `i`, the write taken from the pending inputs (R30, R91);
so does the word placed by `withFetchWord`. -/
def Obligations.StepRunsDecodedCommand : Prop :=
  (∀ (s : State) (rest : List HostInput) (w : Word) (i : Instr),
    s.inputs = cmdWrite w :: rest → decode w = .command i →
      step s = exec i { s with inputs := rest }) ∧
  ∀ (s : State) (w : Nat) (i : Instr),
    decodeTableWord 32 w = some i → step (s.withFetchWord 32 w) = exec i s

/-- R69: an illegal word ends at once with ILLEGAL_COMMAND, no event, and nothing else changed. -/
def Obligations.IllegalWordChangesResultOnly : Prop :=
  (∀ (s : State) (rest : List HostInput) (w : Word),
    s.inputs = cmdWrite w :: rest → Word.legal w = false →
      step s = .next { s with inputs := rest, err := .illegalCommand, ackcnt := 0, ackv := 0 }) ∧
  Word.legal 0 = false

/-- With nothing pending the BBM waits (R165). That this is a step to the same state is the model's choice
(log entry 2). -/
def Obligations.StepWaitsForHostAccess : Prop :=
  ∀ s : State, s.inputs = [] → step s = .next s

/-- A step never changes the parameters, and only appends to the trace (R9, R36, R80). -/
def Obligations.StepExtendsTraceKeepsParams : Prop :=
  ∀ s t : State, step s = .next t → t.params = s.params ∧ ∃ evs, t.trace = s.trace ++ evs

/-! ### Reset -/

/-- The reset state, for every parameter set (R36); the trace is left out. -/
def Obligations.ResetStateValues : Prop :=
  ∀ p : Params,
    let s := State.resetWith p
    s.clk = ⟨false, some .input, some .high⟩ ∧ s.dio = ⟨false, some .input, some .high⟩ ∧
    s.link = .unopened ∧ s.xst = .idle ∧ s.sequencer = none ∧ s.err = .ok ∧ s.ackv = 0 ∧
    s.ackcnt = 0 ∧ s.bitOrder = p.bitOrderReset ∧ s.hold = p.holdReset ∧
    (∀ k : Fin 16, s.txbuf[k] = 0) ∧ s.params = p ∧ statusWord s = 0 ∧
    State.reset = State.resetWith Config.platform

/-- R36: a reset sets every piece of state to its reset value and appends `RST` to the trace, from any
state. That it keeps the inputs behind it and the parameters is the model's choice (log entry 11). -/
def Obligations.ResetStepSetsEveryField : Prop :=
  ∀ (s : State) (n : Nat) (rest : List HostInput), s.inputs = .reset n :: rest →
    ∃ t, step s = .next t ∧
      (t.clk.claimed = false ∧ t.dio.claimed = false) ∧
      (t.clk.dir = some .input ∧ t.dio.dir = some .input) ∧
      (t.clk.lat = some .high ∧ t.dio.lat = some .high) ∧
      t.link = .unopened ∧ t.xst = .idle ∧ t.sequencer = none ∧ t.err = .ok ∧ t.ackv = 0 ∧
      t.ackcnt = 0 ∧ t.bitOrder = s.params.bitOrderReset ∧ t.hold = s.params.holdReset ∧
      (∀ k : Fin 16, t.txbuf[k] = 0) ∧ t.trace = s.trace ++ [.rst] ∧ t.inputs = rest ∧
      t.params = s.params

/-- A reset that arrives while a command runs (R166): the micro-operations before it have emitted their
events, none after it runs, and no result is reported. `t` is where the command ends without the reset;
the draws left are not stated. The count `n` is log entry 3, and that the parameters, the inputs behind the
reset and what the host has read are kept is log entry 11: the model's choices. -/
def Obligations.ResetCutsCommand : Prop :=
  ∀ (i : Instr) (s t : State) (n : Nat) (rest : List HostInput) (evs : List LineEvent),
    s.inputs = .reset n :: rest → exec i { s with inputs := [] } = .next t →
    t.trace = s.trace ++ evs → n < evs.length →
      ∃ d, exec i s = .next
        { State.resetWith s.params with
          trace := s.trace ++ evs.take n ++ [.rst], draws := d, inputs := rest,
          hostRead := s.hostRead }

/-- A reset that is due after no fewer micro-operations than the command runs leaves the command as it is and
stays pending (R166; log entry 3). -/
def Obligations.LateResetLeavesCommand : Prop :=
  ∀ (i : Instr) (s t : State) (n : Nat) (rest : List HostInput) (evs : List LineEvent),
    s.inputs = .reset n :: rest → exec i { s with inputs := [] } = .next t →
    t.trace = s.trace ++ evs → evs.length ≤ n →
      exec i s = .next { t with inputs := .reset n :: rest }

/-! ### Invariants -/

/-- The invariant holds after reset, for every parameter set (R25, R36). -/
def Obligations.ResetMeetsInvariant : Prop :=
  State.reset.Inv ∧ ∀ p : Params, (State.resetWith p).Inv

/-- Every step keeps the resting table, the idle sequencer and the bounds of the result registers
(R24, R25, R26). -/
def Obligations.StepKeepsInvariant : Prop :=
  ∀ s t : State, s.Inv → step s = .next t → t.Inv

/-- From a resting state every command ends in a resting state: it neither faults nor is refused, whatever
the environment answers and whenever a reset arrives (R91, R116). -/
def Obligations.EveryCommandEnds : Prop :=
  ∀ (i : Instr) (s : State), s.Inv → ∃ t, exec i s = .next t ∧ t.Inv

/-- BAD_LINE_OP is not reached from a resting state (R94, R157). -/
def Obligations.NoBadLineOp : Prop :=
  ∀ s : State, s.Inv → step s ≠ .fault .badLineOp

/-- Once CLOSED, only a reset leaves CLOSED, and every command but CLOSE ends with ILLEGAL_STATE and nothing
else changed (R22). -/
def Obligations.ClosedUntilReset : Prop :=
  ∀ s : State, s.link = .closed →
    (∀ t, step s = .next t → t.link = .closed ∨ ∃ n rest, s.inputs = .reset n :: rest) ∧
    ∀ i : Instr, i ≠ .closeLink → exec i s = .next (s.rejected .illegalState)

/-! ### Admission -/

/-- R142: the table of admission. A cell that says "run" is the script of the command; every other cell is
the result code, with no event; an illegal word is ILLEGAL_COMMAND in every column. -/
def Obligations.AdmissionFollowsTable : Prop :=
  (∀ (i : Instr) (s : State),
    match admissionCell s.params i (columnOf s) with
    | .run => exec i s = scriptRun i s
    | .noEffect => exec i s = .next (s.rejected .ok)
    | .reject code => exec i s = .next (s.rejected code)) ∧
  ∀ (s : State) (w : Word) (why : Illegal) (rest : List HostInput),
    decode w = .illegal why → s.inputs = cmdWrite w :: rest →
      step s = .next ({ s with inputs := rest }.rejected .illegalCommand)

/-- R144: a command word that is not admitted changes nothing but ERR, ACKCNT and ACK. -/
def Obligations.RejectionChangesResultOnly : Prop :=
  ∀ (s : State) (rest : List HostInput) (w : Word), s.inputs = cmdWrite w :: rest →
    admitWord w { s with inputs := rest } ≠ .ok →
      step s = .next
        { s with
          inputs := rest, err := admitWord w { s with inputs := rest }, ackcnt := 0, ackv := 0 }

/-! ### What each command does -/

/-- OPEN claims both lines and drives them HIGH when every draw succeeds (R92). -/
def Obligations.OpenClaimsLines : Prop :=
  ∀ s : State, s.LinesReleased → s.link = .unopened → s.resetPending = false →
    s.claimAnswer 0 = true → s.claimAnswer 1 = true → s.OpsSucceed 2 →
      exec .openLink s = .next
        { s with
          clk := .driven .high
          dio := .driven .high
          link := .opened
          xst := .idle
          sequencer := none
          err := .ok
          ackcnt := 0
          ackv := 0
          trace := s.trace ++ [.claim .clk true, .claim .dio true, .dir .clk .output true, .hold,
            .dir .dio .output true, .hold]
          draws := s.draws.used 2 2 0 }

/-- Each way OPEN can fail ends with CONFIGURATION_ERROR and both lines unclaimed again, LINK as before
(R92). -/
def Obligations.OpenFailureLeavesNothingClaimed : Prop :=
  ∀ s : State, s.LinesReleased → s.link = .unopened → s.resetPending = false →
    (s.claimAnswer 0 = false →
      exec .openLink s = .next (s.openFailed [.claim .clk false] 1 0)) ∧
    (s.claimAnswer 0 = true → s.claimAnswer 1 = false →
      exec .openLink s = .next
        (s.openFailed [.claim .clk true, .claim .dio false, .rel .clk] 2 0)) ∧
    (s.claimAnswer 0 = true → s.claimAnswer 1 = true → s.opAnswer 0 = false →
      exec .openLink s = .next
        (s.openFailed [.claim .clk true, .claim .dio true, .dir .clk .output false, .rel .clk,
          .rel .dio] 2 1)) ∧
    (s.claimAnswer 0 = true → s.claimAnswer 1 = true → s.opAnswer 0 = true → s.opAnswer 1 = false →
      exec .openLink s = .next
        (s.openFailed [.claim .clk true, .claim .dio true, .dir .clk .output true, .hold,
          .dir .dio .output false, .rel .clk, .rel .dio] 2 2))

/-- OPEN makes no edge: while no other party drives them, both wires are HIGH after each of its events,
whether it succeeds or fails (R92, R81). -/
def Obligations.OpenMakesNoEdge : Prop :=
  ∀ s t : State, s.LinesReleased → s.link = .unopened → exec .openLink s = .next t →
    ∃ evs, t.trace = s.trace ++ evs ∧
      ∀ p ∈ undrivenLevels (s.clk, s.dio) evs, p = (some .high, some .high)

/-- CLOSE releases both lines in any transaction state, sending no stop condition (R93, R172). -/
def Obligations.CloseReleasesLines : Prop :=
  ∀ s : State, s.link = .opened → s.clk.claimed = true → s.dio.claimed = true →
    s.resetPending = false →
      exec .closeLink s = .next
        { s with
          clk := .released
          dio := .released
          link := .closed
          xst := .idle
          sequencer := none
          err := .ok
          ackcnt := 0
          ackv := 0
          trace := s.trace ++ [.rel .clk, .rel .dio] }

/-- A second CLOSE does nothing but report OK: no event, no state change (R93). -/
def Obligations.CloseTwiceReleasesOnce : Prop :=
  ∀ s t : State, s.Inv → exec .closeLink s = .next t →
    exec .closeLink t = .next (t.rejected .ok)

/-- START makes the start edge and lowers CLK (R106). -/
def Obligations.StartOpensTransaction : Prop :=
  ∀ s : State, s.BusIdle → s.resetPending = false → s.OpsSucceed 2 →
    exec .start s = .next
      { s with
        clk := .driven .low
        dio := .driven .low
        xst := .inframe
        sequencer := none
        err := .ok
        ackcnt := 0
        ackv := 0
        trace := s.trace ++ [.drv .dio .low true, .hold, .drv .clk .low true, .hold]
        draws := s.draws.used 0 2 0 }

/-- WRITE_BYTE sends the byte and reports its acknowledge; a missing one is data, not an error
(R109, R110, R111). -/
def Obligations.WriteByteSendsByte : Prop :=
  ∀ (s : State) (b : Byte), s.InFrame → s.resetPending = false → s.OpsSucceed 29 →
    exec (.writeByte b) s = .next
      { s with
        clk := .driven .low
        dio := .driven (levelOf (bitAt s.bitOrder b 7))
        sequencer := none
        err := .ok
        ackcnt := 1
        ackv := if s.levelAnswer 0 = .low then 1 else 0
        trace := s.trace ++ sendByteEvents s.bitOrder b (s.levelAnswer 0)
        draws := s.draws.used 0 29 1 }

/-- STOP in an open transaction makes the stop edge and leaves the idle bus (R112, R114). -/
def Obligations.StopClosesTransaction : Prop :=
  ∀ s : State, s.InFrame → s.resetPending = false → s.OpsSucceed 3 →
    exec .stop s = .next
      { s with
        clk := .driven .high
        dio := .driven .high
        xst := .idle
        sequencer := none
        err := .ok
        ackcnt := 0
        ackv := 0
        trace := s.trace ++ [.drv .dio .low true, .hold, .drv .clk .high true, .hold,
          .drv .dio .high true, .hold]
        draws := s.draws.used 0 3 0 }

/-- STOP after a line failure retakes both lines and leaves the idle bus (R113, R114, R147). -/
def Obligations.RecoveryStopRestoresIdleBus : Prop :=
  ∀ s : State, s.BusAborted → s.resetPending = false → s.OpsSucceed 6 →
    exec .stop s = .next
      { s with
        clk := .driven .high
        dio := .driven .high
        xst := .idle
        sequencer := none
        err := .ok
        ackcnt := 0
        ackv := 0
        trace := s.trace ++ [.dir .clk .output true, .hold, .drv .clk .low true, .hold,
          .dir .dio .output true, .hold, .drv .dio .low true, .hold, .drv .clk .high true, .hold,
          .drv .dio .high true, .hold]
        draws := s.draws.used 0 6 0 }

/-- A recovery stop that fails leaves the BBM ABORTED with the lines UNKNOWN, so that STOP may be issued
again (R147). -/
def Obligations.FailedRecoveryStaysAborted : Prop :=
  ∀ s : State, s.Inv → s.BusAborted → s.resetPending = false → ¬ s.OpsSucceed 6 →
    ∃ t, exec .stop s = .next t ∧ t.BusAborted ∧ t.Inv ∧ t.err = .ioError ∧ t.ackcnt = 0 ∧
      admission .stop t = .ok

/-- WRITE_CMD sends one frame of the command byte (R126, R127). -/
def Obligations.WriteCmdSendsFrame : Prop :=
  ∀ (s : State) (c : Byte), s.BusIdle → s.resetPending = false → s.OpsSucceed 34 →
    exec (.writeCmd c) s = .next (s.afterFrame [c])

/-- WRITE_REG_BUF sends one frame of the address byte and TXBUF[0..n-1], for every n up to MAX_PAYLOAD
(R126, R128). -/
def Obligations.WriteRegBufSendsFrame : Prop :=
  ∀ (s : State) (r n : Byte), s.BusIdle → s.resetPending = false →
    n.toNat ≤ s.params.maxPayload.val → s.OpsSucceed (34 + 29 * n.toNat) →
      exec (.writeRegBuf r n) s = .next
        (s.afterFrame ((s.params.addrHeader ||| r) :: s.txbuf.toList.take n.toNat)) ∧
      (s.txbuf.toList.take n.toNat).length = n.toNat

/-- SET_BRIGHTNESS sends one frame of the two bytes `cmd` and `cmd | level`, for every level up to
BRIGHTNESS_MAX (R126, R129). -/
def Obligations.SetBrightnessSendsFrame : Prop :=
  ∀ (s : State) (l : Byte), s.BusIdle → s.resetPending = false → l ≤ s.params.brightnessMax →
    s.OpsSucceed 63 →
      exec (.setBrightness l) s = .next
        (s.afterFrame [s.params.brightnessCmd, s.params.brightnessCmd ||| l])

/-! ### Errors -/

/-- R145: when a line operation of an admitted command other than OPEN fails, the command ends at once with
IO_ERROR, both lines UNKNOWN and still claimed, XST = ABORTED and the acknowledges sampled before it. Its
events are a prefix of those it emits when nothing fails (R116), then the failed form of the next one, which
is the first line operation whose answer is a failure. -/
def Obligations.LineFailureAborts : Prop :=
  ∀ (i : Instr) (s : State), s.Inv → s.resetPending = false → i ≠ .openLink →
    admissionCell s.params i (columnOf s) = .run → ¬ s.OpsSucceed (commandLineOps s i) →
      ∃ evs e rest, commandEvents s i = evs ++ e :: rest ∧ e.isLineOp = true ∧
        s.OpsSucceed (evs.countP (·.isLineOp)) ∧ s.opAnswer (evs.countP (·.isLineOp)) = false ∧
        exec i s = .next (s.afterAbort (evs ++ [e.failedForm])
          (s.draws.used 0 (evs.countP (·.isLineOp) + 1) (sampledAcks evs).length))

/-- An admitted command whose claims and line operations all succeed ends with OK and exactly the events of
its script, as many micro-operations and HOLDs as R116 counts, so it lasts at least its HOLDs times
CONFIG.HOLD × HOLD_UNIT (R178). Only OPEN claims. -/
def Obligations.SuccessfulCommandLength : Prop :=
  ∀ (i : Instr) (s : State), s.Inv → s.resetPending = false →
    admissionCell s.params i (columnOf s) = .run → s.OpsSucceed (commandLineOps s i) →
    (i = .openLink → s.claimAnswer 0 = true ∧ s.claimAnswer 1 = true) →
      (∃ t, exec i s = .next t ∧ t.err = .ok ∧ t.trace = s.trace ++ commandEvents s i) ∧
      (∀ x ∈ commandEvents s i, x.failed = false) ∧
      (commandEvents s i).length = commandLength s i ∧
      leastDuration s (commandEvents s i) = commandHolds s i * (s.hold.toNat * s.params.holdUnit)

/-- Whatever a command does, ACKCNT counts the acknowledge slots it sampled and ACK holds their results in
order, also when it failed or was rejected (R26, R110, R141). -/
def Obligations.AcknowledgesReportSamples : Prop :=
  ∀ (i : Instr) (s t : State), s.resetPending = false → exec i s = .next t →
    ∃ evs, t.trace = s.trace ++ evs ∧ t.ackcnt = (sampledAcks evs).length ∧
      t.ackv = BitVec.ofNat 32 (ackSum (sampledAcks evs)) ∧
      ∀ k < 32, t.ackv.getLsbD k = (sampledAcks evs).getD k false

/-- With LINK = OPEN, every command moves XST along a row of the table of R115; LINK changes by CLOSE
alone. -/
def Obligations.TransactionStateFollowsTable : Prop :=
  ∀ (i : Instr) (s t : State), s.Inv → s.link = .opened → s.resetPending = false →
    exec i s = .next t →
      xstRow s.xst i t.err t.xst = true ∧
      t.link = (if i = .closeLink then .closed else .opened)

/-- What no command changes: CONFIG, TXBUF, the parameters, the pending inputs and what the host has read;
and no command but OPEN and CLOSE changes LINK or the claims (R28, R33, R34, R144). -/
def Obligations.CommandFrame : Prop :=
  ∀ (i : Instr) (s t : State), s.resetPending = false → exec i s = .next t →
    t.bitOrder = s.bitOrder ∧ t.hold = s.hold ∧ t.txbuf = s.txbuf ∧ t.params = s.params ∧
    t.inputs = s.inputs ∧ t.hostRead = s.hostRead ∧
    (i ≠ .openLink → i ≠ .closeLink →
      t.link = s.link ∧ t.clk.claimed = s.clk.claimed ∧ t.dio.claimed = s.dio.claimed)

/-! ### The wire -/

/-- R90: in every command admitted with XST not ABORTED, DIO can change only while CLK is driven LOW. The one
start edge excepted is the first event of START and of a framed command; the one stop edge is the last DRV
of STOP and of a framed command; WRITE_BYTE has neither. OPEN is stated apart (`OpenMakesNoEdge`). -/
def Obligations.DioChangesOnlyWhileClkLow : Prop :=
  ∀ (i : Instr) (s t : State), s.Inv → s.xst ≠ .aborted → i ≠ .openLink → exec i s = .next t →
    ∃ evs, t.trace = s.trace ++ evs ∧
      protocolSafe (startEdgeAt i) (stopEdgeAt s i) 0 (s.clk, s.dio) evs = true

/-- No command emits DIR(CLK, IN) or a sample of CLK (R89 point 2). REL(CLK), by which CLOSE and a failed OPEN
give the pin up (R87), is apart. -/
def Obligations.NoDirInOrSampleOfClk : Prop :=
  ∀ (i : Instr) (s t : State), exec i s = .next t →
    ∃ evs, t.trace = s.trace ++ evs ∧ ∀ e ∈ evs, e.notClkInOrSample = true

/-- Every successful DIR and DRV is followed by exactly one HOLD, and no other event is (R86). -/
def Obligations.HoldFollowsEveryLineWrite : Prop :=
  ∀ (i : Instr) (s t : State), s.resetPending = false → exec i s = .next t →
    ∃ evs, t.trace = s.trace ++ evs ∧ holdDiscipline evs = true

/-- R131: with no line failure WRITE_REG_BUF puts on the wire one start transition, n + 1 blocks of eight
bit-pulses and one ack-pulse, and one stop transition, and a target that shifts the bits in reads the address
byte and TXBUF[0..n-1], none lost and none twice. What a target reads off the events is the model's
`Receiver` (log entry 14). -/
def Obligations.WriteRegBufByteExact : Prop :=
  ∀ (s : State) (r n : Byte), s.BusIdle → s.resetPending = false →
    n.toNat ≤ s.params.maxPayload.val → s.OpsSucceed (34 + 29 * n.toNat) →
      ∃ (t : State) (evs : List LineEvent) (blocks : List (List WireSymbol)),
        exec (.writeRegBuf r n) s = .next t ∧ t.trace = s.trace ++ evs ∧
        wireSymbols .idle evs = .start :: (blocks.flatten ++ [.stop]) ∧
        blocks.length = n.toNat + 1 ∧
        (∀ block ∈ blocks, ∃ bits, block = bits ++ [.ackPulse] ∧ bits.length = 8 ∧
          ∀ x ∈ bits, x.isBit = true) ∧
        receivedBytes s.bitOrder 0 (wireSymbols .idle evs) =
          (s.params.addrHeader ||| r) :: s.txbuf.toList.take n.toNat

/-- WRITE_CMD and SET_BRIGHTNESS: a target that shifts the bits in reads exactly the command byte, or
exactly `cmd` and `cmd | level`, between one start and one stop transition (R127, R129).
The target is the `Receiver` of log entry 14. -/
def Obligations.CommandBytesReachTarget : Prop :=
  ∀ s : State, s.BusIdle → s.resetPending = false →
    (∀ c : Byte, s.OpsSucceed 34 →
      ∃ (t : State) (evs : List LineEvent) (syms : List WireSymbol),
        exec (.writeCmd c) s = .next t ∧ t.trace = s.trace ++ evs ∧
        wireSymbols .idle evs = .start :: (syms ++ [.stop]) ∧ .start ∉ syms ∧ .stop ∉ syms ∧
        receivedBytes s.bitOrder 0 syms = [c]) ∧
    ∀ l : Byte, l ≤ s.params.brightnessMax → s.OpsSucceed 63 →
      ∃ (t : State) (evs : List LineEvent) (syms : List WireSymbol),
        exec (.setBrightness l) s = .next t ∧ t.trace = s.trace ++ evs ∧
        wireSymbols .idle evs = .start :: (syms ++ [.stop]) ∧ .start ∉ syms ∧ .stop ∉ syms ∧
        receivedBytes s.bitOrder 0 syms = [s.params.brightnessCmd, s.params.brightnessCmd ||| l]

/-- WRITE_BYTE makes eight bit-pulses and one ack-pulse, whether or not the target acknowledges, and a target
reads the byte (R109, R110; the target is the `Receiver` of log entry 14). -/
def Obligations.WriteByteNinePulses : Prop :=
  ∀ (s : State) (b : Byte), s.InFrame → s.resetPending = false → s.OpsSucceed 29 →
    ∃ (t : State) (evs : List LineEvent) (bits : List WireSymbol),
      exec (.writeByte b) s = .next t ∧ t.trace = s.trace ++ evs ∧
      (∀ d, wireSymbols ⟨.low, d, false, false⟩ evs = bits ++ [.ackPulse]) ∧
      bits.length = 8 ∧ (∀ x ∈ bits, x.isBit = true) ∧
      receivedBytes s.bitOrder 0 (bits ++ [.ackPulse]) = [b]

/-- WRITE_REG_BUF reads TXBUF only below LEN (R128). -/
def Obligations.EntriesFromLenOnAreNotRead : Prop :=
  ∀ (s t : State) (r n : Byte) (other : Vector Byte 16), s.resetPending = false →
    (∀ k : Fin 16, k.val < n.toNat → other[k] = s.txbuf[k]) →
    exec (.writeRegBuf r n) s = .next t →
      exec (.writeRegBuf r n) { s with txbuf := other } = .next { t with txbuf := other }

/-- No command's events or result depend on CONFIG.HOLD: it bounds time only (R86, R178). -/
def Obligations.HoldValueIsTimingOnly : Prop :=
  ∀ (i : Instr) (s t : State) (h : BitVec 16), s.resetPending = false → exec i s = .next t →
    exec i { s with hold := h } = .next { t with hold := h }

/-! ### The register window -/

/-- R51: the only supported access is an aligned 32-bit access inside the window; a step refuses every other
one and none of these. -/
def Obligations.OnlyAlignedWordAccessesAreServed : Prop :=
  (∀ (s : State) (a : Access) (rest : List HostInput), s.inputs = .access a :: rest →
    ((∃ r, step s = .refused r) ↔
      ¬ (a.width = 4 ∧ 0 ≤ a.offset ∧ a.offset ≤ 0x7C ∧ a.offset % 4 = 0))) ∧
  ∀ (p : Params) (offset : Nat) (v : Word),
    memRead p (p.bbmBase + offset) = .read 4 offset ∧
    memWrite p (p.bbmBase + offset) v = .write 4 offset v

/-- What a read of each register returns; it changes nothing else (R30 to R34, R56). -/
def Obligations.ReadsReturnRegisters : Prop :=
  ∀ (s : State) (r : Reg) (rest : List HostInput), s.inputs = .access (.read 4 r.offset) :: rest →
    step s = .next
      { s with
        inputs := rest
        hostRead := some (match r with
          | .cmd => 0
          | .status => statusWord s
          | .ack => s.ackv
          | .config => configWord s
          | .txbuf k => s.txbuf[k].zeroExtend 32) }

/-- Reserved offsets read 0 and ignore writes; writes to STATUS and ACK are ignored (R31, R32, R35). -/
def Obligations.ReservedAndReadOnlyIgnoreWrites : Prop :=
  ∀ (s : State) (rest : List HostInput) (k : Nat) (v : Word),
    (4 ≤ k → k < 16 → s.inputs = .access (.read 4 (4 * k : Nat)) :: rest →
      step s = .next { s with inputs := rest, hostRead := some 0 }) ∧
    (4 ≤ k → k < 16 → s.inputs = .access (.write 4 (4 * k : Nat) v) :: rest →
      step s = .next { s with inputs := rest }) ∧
    (k = 1 ∨ k = 2 → s.inputs = .access (.write 4 (4 * k : Nat) v) :: rest →
      step s = .next { s with inputs := rest })

/-- The fields of STATUS are where R31 places them, with the numbers of R22, R23 and R140, and its reserved
bits read 0. -/
def Obligations.StatusFieldsInPlace : Prop :=
  ∀ s : State, s.ackcnt ≤ 17 →
    (statusWord s).extractLsb' 0 2 =
      (match s.link with | .unopened => 0 | .opened => 1 | .closed => 2) ∧
    (statusWord s).extractLsb' 2 2 =
      (match s.xst with | .idle => 0 | .inframe => 1 | .aborted => 2) ∧
    (statusWord s).extractLsb' 4 4 = 0 ∧
    (statusWord s).extractLsb' 8 4 =
      (match s.err with
        | .ok => 0 | .configurationError => 1 | .invalidArgument => 2 | .ioError => 3
        | .illegalState => 4 | .sequenceError => 5 | .illegalCommand => 6) ∧
    (statusWord s).extractLsb' 12 4 = 0 ∧
    ((statusWord s).extractLsb' 16 5).toNat = s.ackcnt ∧
    (statusWord s).extractLsb' 21 11 = 0

/-- A CONFIG write followed by a CONFIG read returns the written word less the reserved bits 15..1, and
the write changes BIT_ORDER and HOLD alone (R33, R35, R56). -/
def Obligations.ConfigReadsBackWithoutReservedBits : Prop :=
  ∀ (s : State) (v : Word) (rest : List HostInput),
    s.inputs = .access (.write 4 0x0C v) :: .access (.read 4 0x0C) :: rest →
      ∃ order hold, Host.Core.run Sys2Proof.core 2 s = .next
        { s with
          inputs := rest, bitOrder := order, hold := hold,
          hostRead := some (v &&& 0xFFFF0001) } ∧
        hold = v.extractLsb' 16 16 ∧ (order = .lsbFirst ↔ v.getLsbD 0 = true)

/-- A TXBUF write stores the low byte in its entry and leaves the others; a read returns it (R34, R56). -/
def Obligations.TxbufReadsBackLowByte : Prop :=
  ∀ (s : State) (k : Fin 16) (v : Word) (rest : List HostInput),
    s.inputs = .access (.write 4 (0x40 + 4 * k.val : Nat) v) ::
        .access (.read 4 (0x40 + 4 * k.val : Nat)) :: rest →
      ∃ txbuf, Host.Core.run Sys2Proof.core 2 s = .next
        { s with inputs := rest, txbuf := txbuf, hostRead := some (v &&& 0xFF) } ∧
        txbuf[k] = v.extractLsb' 0 8 ∧ ∀ j : Fin 16, j ≠ k → txbuf[j] = s.txbuf[j]

/-- A CMD write followed by a read of STATUS returns that command's result (R59, R177). -/
def Obligations.StatusReadSeesCommandResult : Prop :=
  ∀ (s t : State) (w : Word) (rest : List HostInput),
    s.inputs = cmdWrite w :: .access (.read 4 0x04) :: rest → step s = .next t →
      t.inputs = .access (.read 4 0x04) :: rest ∧
      step t = .next { t with inputs := rest, hostRead := some (statusWord t) }

/-- A CONFIG write followed by a CMD write is seen by that command (R59, R169). -/
def Obligations.CommandSeesConfigWrite : Prop :=
  ∀ (s : State) (v w : Word) (i : Instr) (rest : List HostInput),
    s.inputs = .access (.write 4 0x0C v) :: cmdWrite w :: rest → decode w = .command i →
      Host.Core.run Sys2Proof.core 2 s =
        exec i { s with
          inputs := rest
          bitOrder := if v.getLsbD 0 then .lsbFirst else .msbFirst
          hold := v.extractLsb' 16 16 }

/-! ### Micro-operations -/

/-- R82: `CLAIM(L)`. -/
def Obligations.MicroClaimEffect : Prop :=
  ∀ (s : State) (l : Line),
    ((s.line l).claimed = true → runMicro (.claim l) s = .bad) ∧
    ((s.line l).claimed = false →
      let s' := { s with draws := s.draws.used 1 0 0 }
      runMicro (.claim l) s =
        if s.claimAnswer 0 then
          .ok ((s'.setLine l ⟨true, some .input, some .high⟩).emit (.claim l true)) none
        else .fail (s'.emit (.claim l false)))

/-- R83: `DIR(L, d)`; the latch is kept. With d = OUT and no other party driving the line, the wire shows the
latch; with d = IN it shows what another party drives, or HIGH. -/
def Obligations.MicroDirEffect : Prop :=
  ∀ (s : State) (l : Line) (d : Dir),
    ((s.line l).claimed = false → runMicro (.dir l d) s = .bad) ∧
    ((s.line l).claimed = true →
      let s' := { s with draws := s.draws.used 0 1 0 }
      let f := { s.line l with dir := some d }
      runMicro (.dir l d) s =
        (if s.opAnswer 0 then .ok ((s'.setLine l f).emit (.dir l d true)) none
        else .fail (s'.emit (.dir l d false))) ∧
      (d = .output → wire f none = (s.line l).lat) ∧
      (d = .input → ∀ other, wire f other = some (other.getD .high)))

/-- R84: `DRV(L, v)`; the event is emitted also when the latch already has the level. With no other party
driving the line, the wire shows the level. -/
def Obligations.MicroDrvEffect : Prop :=
  ∀ (s : State) (l : Line) (v : Level),
    (¬ ((s.line l).claimed = true ∧ (s.line l).dir = some .output) →
      runMicro (.drv l v) s = .bad) ∧
    ((s.line l).claimed = true → (s.line l).dir = some .output →
      let s' := { s with draws := s.draws.used 0 1 0 }
      let f := { s.line l with lat := some v }
      runMicro (.drv l v) s =
        (if s.opAnswer 0 then .ok ((s'.setLine l f).emit (.drv l v true)) none
        else .fail (s'.emit (.drv l v false))) ∧
      wire f none = some v)

/-- R85: `SMP(L)`; a failed sample draws no level and returns none; no command samples a line other than
DIO. -/
def Obligations.MicroSmpEffect : Prop :=
  (∀ (s : State) (l : Line),
    (¬ ((s.line l).claimed = true ∧ (s.line l).dir = some .input) → runMicro (.smp l) s = .bad) ∧
    ((s.line l).claimed = true → (s.line l).dir = some .input →
      runMicro (.smp l) s =
        if s.opAnswer 0 then
          .ok ({ s with draws := s.draws.used 0 1 1 }.emit (.smp l (some (s.levelAnswer 0))))
            (some (s.levelAnswer 0))
        else .fail ({ s with draws := s.draws.used 0 1 0 }.emit (.smp l none)))) ∧
  ∀ (i : Instr) (s t : State), exec i s = .next t →
    ∃ evs, t.trace = s.trace ++ evs ∧ ∀ v, LineEvent.smp .clk v ∉ evs

/-- R87: `REL(L)` never fails; afterwards the BBM does not drive the line. -/
def Obligations.MicroRelEffect : Prop :=
  ∀ (s : State) (l : Line),
    ((s.line l).claimed = false → runMicro (.rel l) s = .bad) ∧
    ((s.line l).claimed = true →
      runMicro (.rel l) s =
        .ok ((s.setLine l ⟨false, some .input, some .high⟩).emit (.rel l)) none ∧
      ∀ other, wire ⟨false, some .input, some .high⟩ other = some (other.getD .high))

/-! ### The assembler -/

/-- A command statement writes the word of its command to CMD (R71), RECOVER that of STOP (R72), and a
literal that does not fit its field is an assembly error. -/
def Obligations.StatementsWriteCommandWords : Prop :=
  ∀ p : Params,
    assemble p .openStmt = some [.write 4 0 (encode .openLink)] ∧
    assemble p .closeStmt = some [.write 4 0 (encode .closeLink)] ∧
    assemble p .startStmt = some [.write 4 0 (encode .start)] ∧
    assemble p .stopStmt = some [.write 4 0 (encode .stop)] ∧
    assemble p .recover = some [.write 4 0 (encode .stop)] ∧
    (∀ b : Byte, assemble p (.wrbyte b.toNat) = some [.write 4 0 (encode (.writeByte b))]) ∧
    (∀ c : Byte, assemble p (.wrcmd c.toNat) = some [.write 4 0 (encode (.writeCmd c))]) ∧
    (∀ r n : Byte,
      assemble p (.wrreg r.toNat n.toNat) = some [.write 4 0 (encode (.writeRegBuf r n))]) ∧
    (∀ l : Byte, assemble p (.setbri l.toNat) = some [.write 4 0 (encode (.setBrightness l))]) ∧
    ∀ b, 256 ≤ b → assemble p (.wrbyte b) = none ∧ assemble p (.wrcmd b) = none ∧
      assemble p (.setbri b) = none ∧
      ∀ k, assemble p (.wrreg b k) = none ∧ assemble p (.wrreg k b) = none

/-- The accesses of `WRREGBUF r, bs` (R72), run one a step, leave `bs` in TXBUF[0..] with the other entries
as they were, and then run WRITE_REG_BUF with LEN the number of bytes. -/
def Obligations.WrregbufLoadsPayloadThenSends : Prop :=
  ∀ (s : State) (r : Byte) (bs : List Byte) (rest : List HostInput), bs.length ≤ 16 →
    ∃ accesses txbuf,
      assemble s.params (.wrregbuf r.toNat (bs.map (·.toNat))) = some accesses ∧
      (∀ k : Fin 16, txbuf[k] = bs.getD k.val s.txbuf[k]) ∧
      Host.Core.run Sys2Proof.core (bs.length + 1)
          { s with inputs := accesses.map .access ++ rest } =
        exec (.writeRegBuf r (BitVec.ofNat 8 bs.length)) { s with inputs := rest, txbuf := txbuf }
end

