-- ==== Sys2Proof/Laws/State.lean ====
section
/-! SUPPORT. One lemma per field per update of the state, true by computation and tagged simp, so that no
later proof unfolds a record update. -/

namespace Sys2Proof.Machine

@[simp] theorem setLine_link (s : State) (l : Line) (f : LineState) : (s.setLine l f).link = s.link := by cases l <;> rfl
@[simp] theorem setLine_xst (s : State) (l : Line) (f : LineState) : (s.setLine l f).xst = s.xst := by cases l <;> rfl
@[simp] theorem setLine_sequencer (s : State) (l : Line) (f : LineState) : (s.setLine l f).sequencer = s.sequencer := by cases l <;> rfl
@[simp] theorem setLine_err (s : State) (l : Line) (f : LineState) : (s.setLine l f).err = s.err := by cases l <;> rfl
@[simp] theorem setLine_ackv (s : State) (l : Line) (f : LineState) : (s.setLine l f).ackv = s.ackv := by cases l <;> rfl
@[simp] theorem setLine_ackcnt (s : State) (l : Line) (f : LineState) : (s.setLine l f).ackcnt = s.ackcnt := by cases l <;> rfl
@[simp] theorem setLine_bitOrder (s : State) (l : Line) (f : LineState) : (s.setLine l f).bitOrder = s.bitOrder := by cases l <;> rfl
@[simp] theorem setLine_hold (s : State) (l : Line) (f : LineState) : (s.setLine l f).hold = s.hold := by cases l <;> rfl
@[simp] theorem setLine_txbuf (s : State) (l : Line) (f : LineState) : (s.setLine l f).txbuf = s.txbuf := by cases l <;> rfl
@[simp] theorem setLine_trace (s : State) (l : Line) (f : LineState) : (s.setLine l f).trace = s.trace := by cases l <;> rfl
@[simp] theorem setLine_params (s : State) (l : Line) (f : LineState) : (s.setLine l f).params = s.params := by cases l <;> rfl
@[simp] theorem setLine_draws (s : State) (l : Line) (f : LineState) : (s.setLine l f).draws = s.draws := by cases l <;> rfl
@[simp] theorem setLine_inputs (s : State) (l : Line) (f : LineState) : (s.setLine l f).inputs = s.inputs := by cases l <;> rfl
@[simp] theorem setLine_hostRead (s : State) (l : Line) (f : LineState) : (s.setLine l f).hostRead = s.hostRead := by cases l <;> rfl

@[simp] theorem setLine_line_same (s : State) (l : Line) (f : LineState) :
    (s.setLine l f).line l = f := by cases l <;> rfl
theorem setLine_line_other (s : State) (l l' : Line) (f : LineState) (h : l' ≠ l) :
    (s.setLine l f).line l' = s.line l' := by cases l <;> cases l' <;> first | rfl | exact absurd rfl h
@[simp] theorem setLine_clk_clk (s : State) (f : LineState) : (s.setLine .clk f).clk = f := rfl
@[simp] theorem setLine_clk_dio (s : State) (f : LineState) : (s.setLine .clk f).dio = s.dio := rfl
@[simp] theorem setLine_dio_clk (s : State) (f : LineState) : (s.setLine .dio f).clk = s.clk := rfl
@[simp] theorem setLine_dio_dio (s : State) (f : LineState) : (s.setLine .dio f).dio = f := rfl
@[simp] theorem line_clk (s : State) : s.line .clk = s.clk := rfl
@[simp] theorem line_dio (s : State) : s.line .dio = s.dio := rfl

@[simp] theorem emit_clk (s : State) (e : LineEvent) : (s.emit e).clk = s.clk := rfl
@[simp] theorem emit_dio (s : State) (e : LineEvent) : (s.emit e).dio = s.dio := rfl
@[simp] theorem emit_link (s : State) (e : LineEvent) : (s.emit e).link = s.link := rfl
@[simp] theorem emit_xst (s : State) (e : LineEvent) : (s.emit e).xst = s.xst := rfl
@[simp] theorem emit_sequencer (s : State) (e : LineEvent) : (s.emit e).sequencer = s.sequencer := rfl
@[simp] theorem emit_err (s : State) (e : LineEvent) : (s.emit e).err = s.err := rfl
@[simp] theorem emit_ackv (s : State) (e : LineEvent) : (s.emit e).ackv = s.ackv := rfl
@[simp] theorem emit_ackcnt (s : State) (e : LineEvent) : (s.emit e).ackcnt = s.ackcnt := rfl
@[simp] theorem emit_bitOrder (s : State) (e : LineEvent) : (s.emit e).bitOrder = s.bitOrder := rfl
@[simp] theorem emit_hold (s : State) (e : LineEvent) : (s.emit e).hold = s.hold := rfl
@[simp] theorem emit_txbuf (s : State) (e : LineEvent) : (s.emit e).txbuf = s.txbuf := rfl
@[simp] theorem emit_trace (s : State) (e : LineEvent) : (s.emit e).trace = s.trace ++ [e] := rfl
@[simp] theorem emit_params (s : State) (e : LineEvent) : (s.emit e).params = s.params := rfl
@[simp] theorem emit_draws (s : State) (e : LineEvent) : (s.emit e).draws = s.draws := rfl
@[simp] theorem emit_inputs (s : State) (e : LineEvent) : (s.emit e).inputs = s.inputs := rfl
@[simp] theorem emit_hostRead (s : State) (e : LineEvent) : (s.emit e).hostRead = s.hostRead := rfl

@[simp] theorem emit_line (s : State) (e : LineEvent) (l : Line) : (s.emit e).line l = s.line l := by
  cases l <;> rfl

@[simp] theorem beginScript_clk (s : State) : s.beginScript.clk = s.clk := rfl
@[simp] theorem beginScript_dio (s : State) : s.beginScript.dio = s.dio := rfl
@[simp] theorem beginScript_link (s : State) : s.beginScript.link = s.link := rfl
@[simp] theorem beginScript_xst (s : State) : s.beginScript.xst = s.xst := rfl
@[simp] theorem beginScript_sequencer (s : State) : s.beginScript.sequencer = some ⟨0, none⟩ := rfl
@[simp] theorem beginScript_err (s : State) : s.beginScript.err = s.err := rfl
@[simp] theorem beginScript_ackv (s : State) : s.beginScript.ackv = s.ackv := rfl
@[simp] theorem beginScript_ackcnt (s : State) : s.beginScript.ackcnt = s.ackcnt := rfl
@[simp] theorem beginScript_bitOrder (s : State) : s.beginScript.bitOrder = s.bitOrder := rfl
@[simp] theorem beginScript_hold (s : State) : s.beginScript.hold = s.hold := rfl
@[simp] theorem beginScript_txbuf (s : State) : s.beginScript.txbuf = s.txbuf := rfl
@[simp] theorem beginScript_trace (s : State) : s.beginScript.trace = s.trace := rfl
@[simp] theorem beginScript_params (s : State) : s.beginScript.params = s.params := rfl
@[simp] theorem beginScript_draws (s : State) : s.beginScript.draws = s.draws := rfl
@[simp] theorem beginScript_inputs (s : State) : s.beginScript.inputs = s.inputs := rfl
@[simp] theorem beginScript_hostRead (s : State) : s.beginScript.hostRead = s.hostRead := rfl

@[simp] theorem beginScript_line (s : State) (l : Line) : s.beginScript.line l = s.line l := by
  cases l <;> rfl

@[simp] theorem enterPhase_clk (s : State) (ph : Option Phase) : (s.enterPhase ph).clk = s.clk := rfl
@[simp] theorem enterPhase_dio (s : State) (ph : Option Phase) : (s.enterPhase ph).dio = s.dio := rfl
@[simp] theorem enterPhase_link (s : State) (ph : Option Phase) : (s.enterPhase ph).link = s.link := rfl
@[simp] theorem enterPhase_xst (s : State) (ph : Option Phase) : (s.enterPhase ph).xst = s.xst := rfl
@[simp] theorem enterPhase_sequencer (s : State) (ph : Option Phase) : (s.enterPhase ph).sequencer = some ⟨s.seqIndex, ph⟩ := rfl
@[simp] theorem enterPhase_err (s : State) (ph : Option Phase) : (s.enterPhase ph).err = s.err := rfl
@[simp] theorem enterPhase_ackv (s : State) (ph : Option Phase) : (s.enterPhase ph).ackv = s.ackv := rfl
@[simp] theorem enterPhase_ackcnt (s : State) (ph : Option Phase) : (s.enterPhase ph).ackcnt = s.ackcnt := rfl
@[simp] theorem enterPhase_bitOrder (s : State) (ph : Option Phase) : (s.enterPhase ph).bitOrder = s.bitOrder := rfl
@[simp] theorem enterPhase_hold (s : State) (ph : Option Phase) : (s.enterPhase ph).hold = s.hold := rfl
@[simp] theorem enterPhase_txbuf (s : State) (ph : Option Phase) : (s.enterPhase ph).txbuf = s.txbuf := rfl
@[simp] theorem enterPhase_trace (s : State) (ph : Option Phase) : (s.enterPhase ph).trace = s.trace := rfl
@[simp] theorem enterPhase_params (s : State) (ph : Option Phase) : (s.enterPhase ph).params = s.params := rfl
@[simp] theorem enterPhase_draws (s : State) (ph : Option Phase) : (s.enterPhase ph).draws = s.draws := rfl
@[simp] theorem enterPhase_inputs (s : State) (ph : Option Phase) : (s.enterPhase ph).inputs = s.inputs := rfl
@[simp] theorem enterPhase_hostRead (s : State) (ph : Option Phase) : (s.enterPhase ph).hostRead = s.hostRead := rfl

@[simp] theorem enterPhase_line (s : State) (ph : Option Phase) (l : Line) : (s.enterPhase ph).line l = s.line l := by
  cases l <;> rfl

@[simp] theorem advance_clk (s : State) : s.advance.clk = s.clk := rfl
@[simp] theorem advance_dio (s : State) : s.advance.dio = s.dio := rfl
@[simp] theorem advance_link (s : State) : s.advance.link = s.link := rfl
@[simp] theorem advance_xst (s : State) : s.advance.xst = s.xst := rfl
@[simp] theorem advance_err (s : State) : s.advance.err = s.err := rfl
@[simp] theorem advance_ackv (s : State) : s.advance.ackv = s.ackv := rfl
@[simp] theorem advance_ackcnt (s : State) : s.advance.ackcnt = s.ackcnt := rfl
@[simp] theorem advance_bitOrder (s : State) : s.advance.bitOrder = s.bitOrder := rfl
@[simp] theorem advance_hold (s : State) : s.advance.hold = s.hold := rfl
@[simp] theorem advance_txbuf (s : State) : s.advance.txbuf = s.txbuf := rfl
@[simp] theorem advance_trace (s : State) : s.advance.trace = s.trace := rfl
@[simp] theorem advance_params (s : State) : s.advance.params = s.params := rfl
@[simp] theorem advance_draws (s : State) : s.advance.draws = s.draws := rfl
@[simp] theorem advance_inputs (s : State) : s.advance.inputs = s.inputs := rfl
@[simp] theorem advance_hostRead (s : State) : s.advance.hostRead = s.hostRead := rfl

@[simp] theorem advance_line (s : State) (l : Line) : s.advance.line l = s.line l := by
  cases l <;> rfl

@[simp] theorem endScript_clk (s : State) : s.endScript.clk = s.clk := rfl
@[simp] theorem endScript_dio (s : State) : s.endScript.dio = s.dio := rfl
@[simp] theorem endScript_link (s : State) : s.endScript.link = s.link := rfl
@[simp] theorem endScript_xst (s : State) : s.endScript.xst = s.xst := rfl
@[simp] theorem endScript_sequencer (s : State) : s.endScript.sequencer = none := rfl
@[simp] theorem endScript_err (s : State) : s.endScript.err = s.err := rfl
@[simp] theorem endScript_ackv (s : State) : s.endScript.ackv = s.ackv := rfl
@[simp] theorem endScript_ackcnt (s : State) : s.endScript.ackcnt = s.ackcnt := rfl
@[simp] theorem endScript_bitOrder (s : State) : s.endScript.bitOrder = s.bitOrder := rfl
@[simp] theorem endScript_hold (s : State) : s.endScript.hold = s.hold := rfl
@[simp] theorem endScript_txbuf (s : State) : s.endScript.txbuf = s.txbuf := rfl
@[simp] theorem endScript_trace (s : State) : s.endScript.trace = s.trace := rfl
@[simp] theorem endScript_params (s : State) : s.endScript.params = s.params := rfl
@[simp] theorem endScript_draws (s : State) : s.endScript.draws = s.draws := rfl
@[simp] theorem endScript_inputs (s : State) : s.endScript.inputs = s.inputs := rfl
@[simp] theorem endScript_hostRead (s : State) : s.endScript.hostRead = s.hostRead := rfl

@[simp] theorem dropInput_clk (s : State) : s.dropInput.clk = s.clk := rfl
@[simp] theorem dropInput_dio (s : State) : s.dropInput.dio = s.dio := rfl
@[simp] theorem dropInput_link (s : State) : s.dropInput.link = s.link := rfl
@[simp] theorem dropInput_xst (s : State) : s.dropInput.xst = s.xst := rfl
@[simp] theorem dropInput_sequencer (s : State) : s.dropInput.sequencer = s.sequencer := rfl
@[simp] theorem dropInput_err (s : State) : s.dropInput.err = s.err := rfl
@[simp] theorem dropInput_ackv (s : State) : s.dropInput.ackv = s.ackv := rfl
@[simp] theorem dropInput_ackcnt (s : State) : s.dropInput.ackcnt = s.ackcnt := rfl
@[simp] theorem dropInput_bitOrder (s : State) : s.dropInput.bitOrder = s.bitOrder := rfl
@[simp] theorem dropInput_hold (s : State) : s.dropInput.hold = s.hold := rfl
@[simp] theorem dropInput_txbuf (s : State) : s.dropInput.txbuf = s.txbuf := rfl
@[simp] theorem dropInput_trace (s : State) : s.dropInput.trace = s.trace := rfl
@[simp] theorem dropInput_params (s : State) : s.dropInput.params = s.params := rfl
@[simp] theorem dropInput_draws (s : State) : s.dropInput.draws = s.draws := rfl
@[simp] theorem dropInput_inputs (s : State) : s.dropInput.inputs = s.inputs.drop 1 := rfl
@[simp] theorem dropInput_hostRead (s : State) : s.dropInput.hostRead = s.hostRead := rfl

@[simp] theorem finish_clk (code : ResultCode) (acks : List Bool) (s : State) : (finish code acks s).clk = s.clk := rfl
@[simp] theorem finish_dio (code : ResultCode) (acks : List Bool) (s : State) : (finish code acks s).dio = s.dio := rfl
@[simp] theorem finish_link (code : ResultCode) (acks : List Bool) (s : State) : (finish code acks s).link = s.link := rfl
@[simp] theorem finish_xst (code : ResultCode) (acks : List Bool) (s : State) : (finish code acks s).xst = s.xst := rfl
@[simp] theorem finish_sequencer (code : ResultCode) (acks : List Bool) (s : State) : (finish code acks s).sequencer = s.sequencer := rfl
@[simp] theorem finish_err (code : ResultCode) (acks : List Bool) (s : State) : (finish code acks s).err = code := rfl
@[simp] theorem finish_ackv (code : ResultCode) (acks : List Bool) (s : State) : (finish code acks s).ackv = BitVec.ofNat 32 (ackSum acks) := rfl
@[simp] theorem finish_ackcnt (code : ResultCode) (acks : List Bool) (s : State) : (finish code acks s).ackcnt = acks.length := rfl
@[simp] theorem finish_bitOrder (code : ResultCode) (acks : List Bool) (s : State) : (finish code acks s).bitOrder = s.bitOrder := rfl
@[simp] theorem finish_hold (code : ResultCode) (acks : List Bool) (s : State) : (finish code acks s).hold = s.hold := rfl
@[simp] theorem finish_txbuf (code : ResultCode) (acks : List Bool) (s : State) : (finish code acks s).txbuf = s.txbuf := rfl
@[simp] theorem finish_trace (code : ResultCode) (acks : List Bool) (s : State) : (finish code acks s).trace = s.trace := rfl
@[simp] theorem finish_params (code : ResultCode) (acks : List Bool) (s : State) : (finish code acks s).params = s.params := rfl
@[simp] theorem finish_draws (code : ResultCode) (acks : List Bool) (s : State) : (finish code acks s).draws = s.draws := rfl
@[simp] theorem finish_inputs (code : ResultCode) (acks : List Bool) (s : State) : (finish code acks s).inputs = s.inputs := rfl
@[simp] theorem finish_hostRead (code : ResultCode) (acks : List Bool) (s : State) : (finish code acks s).hostRead = s.hostRead := rfl

@[simp] theorem abort_clk (s : State) : (abort s).clk = { s.clk with dir := none, lat := none } := rfl
@[simp] theorem abort_dio (s : State) : (abort s).dio = { s.dio with dir := none, lat := none } := rfl
@[simp] theorem abort_link (s : State) : (abort s).link = s.link := rfl
@[simp] theorem abort_xst (s : State) : (abort s).xst = .aborted := rfl
@[simp] theorem abort_sequencer (s : State) : (abort s).sequencer = s.sequencer := rfl
@[simp] theorem abort_err (s : State) : (abort s).err = s.err := rfl
@[simp] theorem abort_ackv (s : State) : (abort s).ackv = s.ackv := rfl
@[simp] theorem abort_ackcnt (s : State) : (abort s).ackcnt = s.ackcnt := rfl
@[simp] theorem abort_bitOrder (s : State) : (abort s).bitOrder = s.bitOrder := rfl
@[simp] theorem abort_hold (s : State) : (abort s).hold = s.hold := rfl
@[simp] theorem abort_txbuf (s : State) : (abort s).txbuf = s.txbuf := rfl
@[simp] theorem abort_trace (s : State) : (abort s).trace = s.trace := rfl
@[simp] theorem abort_params (s : State) : (abort s).params = s.params := rfl
@[simp] theorem abort_draws (s : State) : (abort s).draws = s.draws := rfl
@[simp] theorem abort_inputs (s : State) : (abort s).inputs = s.inputs := rfl
@[simp] theorem abort_hostRead (s : State) : (abort s).hostRead = s.hostRead := rfl

@[simp] theorem takeReset_clk (s : State) : (takeReset s).clk = .released := rfl
@[simp] theorem takeReset_dio (s : State) : (takeReset s).dio = .released := rfl
@[simp] theorem takeReset_link (s : State) : (takeReset s).link = .unopened := rfl
@[simp] theorem takeReset_xst (s : State) : (takeReset s).xst = .idle := rfl
@[simp] theorem takeReset_sequencer (s : State) : (takeReset s).sequencer = none := rfl
@[simp] theorem takeReset_err (s : State) : (takeReset s).err = .ok := rfl
@[simp] theorem takeReset_ackv (s : State) : (takeReset s).ackv = 0 := rfl
@[simp] theorem takeReset_ackcnt (s : State) : (takeReset s).ackcnt = 0 := rfl
@[simp] theorem takeReset_bitOrder (s : State) : (takeReset s).bitOrder = s.params.bitOrderReset := rfl
@[simp] theorem takeReset_hold (s : State) : (takeReset s).hold = s.params.holdReset := rfl
@[simp] theorem takeReset_txbuf (s : State) : (takeReset s).txbuf = Vector.replicate 16 0 := rfl
@[simp] theorem takeReset_trace (s : State) : (takeReset s).trace = s.trace ++ [.rst] := rfl
@[simp] theorem takeReset_params (s : State) : (takeReset s).params = s.params := rfl
@[simp] theorem takeReset_draws (s : State) : (takeReset s).draws = s.draws := rfl
@[simp] theorem takeReset_inputs (s : State) : (takeReset s).inputs = s.inputs := rfl
@[simp] theorem takeReset_hostRead (s : State) : (takeReset s).hostRead = s.hostRead := rfl

@[simp] theorem drawClaimOk_clk (s : State) : (drawClaimOk s).2.clk = s.clk := rfl
@[simp] theorem drawClaimOk_dio (s : State) : (drawClaimOk s).2.dio = s.dio := rfl
@[simp] theorem drawClaimOk_link (s : State) : (drawClaimOk s).2.link = s.link := rfl
@[simp] theorem drawClaimOk_xst (s : State) : (drawClaimOk s).2.xst = s.xst := rfl
@[simp] theorem drawClaimOk_sequencer (s : State) : (drawClaimOk s).2.sequencer = s.sequencer := rfl
@[simp] theorem drawClaimOk_err (s : State) : (drawClaimOk s).2.err = s.err := rfl
@[simp] theorem drawClaimOk_ackv (s : State) : (drawClaimOk s).2.ackv = s.ackv := rfl
@[simp] theorem drawClaimOk_ackcnt (s : State) : (drawClaimOk s).2.ackcnt = s.ackcnt := rfl
@[simp] theorem drawClaimOk_bitOrder (s : State) : (drawClaimOk s).2.bitOrder = s.bitOrder := rfl
@[simp] theorem drawClaimOk_hold (s : State) : (drawClaimOk s).2.hold = s.hold := rfl
@[simp] theorem drawClaimOk_txbuf (s : State) : (drawClaimOk s).2.txbuf = s.txbuf := rfl
@[simp] theorem drawClaimOk_trace (s : State) : (drawClaimOk s).2.trace = s.trace := rfl
@[simp] theorem drawClaimOk_params (s : State) : (drawClaimOk s).2.params = s.params := rfl
@[simp] theorem drawClaimOk_inputs (s : State) : (drawClaimOk s).2.inputs = s.inputs := rfl
@[simp] theorem drawClaimOk_hostRead (s : State) : (drawClaimOk s).2.hostRead = s.hostRead := rfl

@[simp] theorem drawClaimOk_line (s : State) (l : Line) : (drawClaimOk s).2.line l = s.line l := by
  cases l <;> rfl

@[simp] theorem drawOpOk_clk (s : State) : (drawOpOk s).2.clk = s.clk := rfl
@[simp] theorem drawOpOk_dio (s : State) : (drawOpOk s).2.dio = s.dio := rfl
@[simp] theorem drawOpOk_link (s : State) : (drawOpOk s).2.link = s.link := rfl
@[simp] theorem drawOpOk_xst (s : State) : (drawOpOk s).2.xst = s.xst := rfl
@[simp] theorem drawOpOk_sequencer (s : State) : (drawOpOk s).2.sequencer = s.sequencer := rfl
@[simp] theorem drawOpOk_err (s : State) : (drawOpOk s).2.err = s.err := rfl
@[simp] theorem drawOpOk_ackv (s : State) : (drawOpOk s).2.ackv = s.ackv := rfl
@[simp] theorem drawOpOk_ackcnt (s : State) : (drawOpOk s).2.ackcnt = s.ackcnt := rfl
@[simp] theorem drawOpOk_bitOrder (s : State) : (drawOpOk s).2.bitOrder = s.bitOrder := rfl
@[simp] theorem drawOpOk_hold (s : State) : (drawOpOk s).2.hold = s.hold := rfl
@[simp] theorem drawOpOk_txbuf (s : State) : (drawOpOk s).2.txbuf = s.txbuf := rfl
@[simp] theorem drawOpOk_trace (s : State) : (drawOpOk s).2.trace = s.trace := rfl
@[simp] theorem drawOpOk_params (s : State) : (drawOpOk s).2.params = s.params := rfl
@[simp] theorem drawOpOk_inputs (s : State) : (drawOpOk s).2.inputs = s.inputs := rfl
@[simp] theorem drawOpOk_hostRead (s : State) : (drawOpOk s).2.hostRead = s.hostRead := rfl

@[simp] theorem drawOpOk_line (s : State) (l : Line) : (drawOpOk s).2.line l = s.line l := by
  cases l <;> rfl

@[simp] theorem drawDioLevel_clk (s : State) : (drawDioLevel s).2.clk = s.clk := rfl
@[simp] theorem drawDioLevel_dio (s : State) : (drawDioLevel s).2.dio = s.dio := rfl
@[simp] theorem drawDioLevel_link (s : State) : (drawDioLevel s).2.link = s.link := rfl
@[simp] theorem drawDioLevel_xst (s : State) : (drawDioLevel s).2.xst = s.xst := rfl
@[simp] theorem drawDioLevel_sequencer (s : State) : (drawDioLevel s).2.sequencer = s.sequencer := rfl
@[simp] theorem drawDioLevel_err (s : State) : (drawDioLevel s).2.err = s.err := rfl
@[simp] theorem drawDioLevel_ackv (s : State) : (drawDioLevel s).2.ackv = s.ackv := rfl
@[simp] theorem drawDioLevel_ackcnt (s : State) : (drawDioLevel s).2.ackcnt = s.ackcnt := rfl
@[simp] theorem drawDioLevel_bitOrder (s : State) : (drawDioLevel s).2.bitOrder = s.bitOrder := rfl
@[simp] theorem drawDioLevel_hold (s : State) : (drawDioLevel s).2.hold = s.hold := rfl
@[simp] theorem drawDioLevel_txbuf (s : State) : (drawDioLevel s).2.txbuf = s.txbuf := rfl
@[simp] theorem drawDioLevel_trace (s : State) : (drawDioLevel s).2.trace = s.trace := rfl
@[simp] theorem drawDioLevel_params (s : State) : (drawDioLevel s).2.params = s.params := rfl
@[simp] theorem drawDioLevel_inputs (s : State) : (drawDioLevel s).2.inputs = s.inputs := rfl
@[simp] theorem drawDioLevel_hostRead (s : State) : (drawDioLevel s).2.hostRead = s.hostRead := rfl

@[simp] theorem drawDioLevel_line (s : State) (l : Line) : (drawDioLevel s).2.line l = s.line l := by
  cases l <;> rfl

@[simp] theorem beginScript_seqIndex (s : State) : s.beginScript.seqIndex = 0 := rfl
@[simp] theorem enterPhase_seqIndex (s : State) (ph : Option Phase) :
    (s.enterPhase ph).seqIndex = s.seqIndex := rfl
@[simp] theorem advance_seqIndex (s : State) : s.advance.seqIndex = s.seqIndex + 1 := rfl
@[simp] theorem emit_seqIndex (s : State) (e : LineEvent) : (s.emit e).seqIndex = s.seqIndex := rfl
@[simp] theorem setLine_seqIndex (s : State) (l : Line) (f : LineState) :
    (s.setLine l f).seqIndex = s.seqIndex := by cases l <;> rfl
@[simp] theorem drawClaimOk_seqIndex (s : State) : (drawClaimOk s).2.seqIndex = s.seqIndex := rfl
@[simp] theorem drawOpOk_seqIndex (s : State) : (drawOpOk s).2.seqIndex = s.seqIndex := rfl
@[simp] theorem drawDioLevel_seqIndex (s : State) : (drawDioLevel s).2.seqIndex = s.seqIndex := rfl

/-- `enterPhase` and `advance` touch the sequencer alone. -/
@[simp] theorem enterPhase_resetPending (s : State) (ph : Option Phase) :
    (s.enterPhase ph).resetPending = s.resetPending := rfl
@[simp] theorem advance_resetPending (s : State) : s.advance.resetPending = s.resetPending := rfl

end Sys2Proof.Machine
end

