-- ==== Sys2Proof/Laws/Ops.lean ====
section
/-! SUPPORT. What each shared operation can do, said once: the draws, one micro-operation, a script, the end
of a command, admission and reset. Proofs cite these and do not unfold the operations. -/

namespace Sys2Proof.Machine

/-! ### Draws -/

theorem Source.draw_eq {α : Type} (free : Nat → α) (src : Source α) :
    src.draw free = (src.answer free 0, src.after 1) := by
  obtain ⟨queue, taken⟩ := src
  cases queue <;> simp [Source.draw, Source.answer, Source.after]

@[simp] theorem Source.after_zero {α : Type} (src : Source α) : src.after 0 = src := by
  simp [Source.after]

@[simp] theorem Source.after_after {α : Type} (src : Source α) (j k : Nat) :
    (src.after j).after k = src.after (j + k) := by
  simp only [Source.after, List.drop_drop, List.length_drop, Source.mk.injEq, true_and]
  omega

@[simp] theorem Source.answer_after {α : Type} (free : Nat → α) (src : Source α) (j k : Nat) :
    (src.after j).answer free k = src.answer free (j + k) := by
  simp only [Source.answer, Source.after, List.getElem?_drop, List.length_drop]
  split
  · rfl
  · rename_i h
    rw [List.getElem?_eq_none_iff] at h
    congr 1
    omega

@[simp] theorem Draws.used_used (d : Draws) (c o l c' o' l' : Nat) :
    (d.used c o l).used c' o' l' = d.used (c + c') (o + o') (l + l') := by
  simp [Draws.used]

@[simp] theorem Draws.used_zero (d : Draws) : d.used 0 0 0 = d := by
  simp [Draws.used]

theorem drawClaimOk_eq (s : State) :
    drawClaimOk s = (s.claimAnswer 0, { s with draws := s.draws.used 1 0 0 }) := by
  simp [drawClaimOk, Source.draw_eq, State.claimAnswer, Draws.used]

theorem drawOpOk_eq (s : State) :
    drawOpOk s = (s.opAnswer 0, { s with draws := s.draws.used 0 1 0 }) := by
  simp [drawOpOk, Source.draw_eq, State.opAnswer, Draws.used]

theorem drawDioLevel_eq (s : State) :
    drawDioLevel s = (s.levelAnswer 0, { s with draws := s.draws.used 0 0 1 }) := by
  simp [drawDioLevel, Source.draw_eq, State.levelAnswer, Draws.used]

/-! ### Results -/

/-- The sum of R141 fits as many bits as there are acknowledges. -/
theorem ackSum_lt (acks : List Bool) : ackSum acks < 2 ^ acks.length := by
  induction acks with
  | nil => simp [ackSum]
  | cons a rest ih =>
    have : a.toNat ≤ 1 := by cases a <;> simp
    simp only [ackSum, List.length_cons, Nat.pow_succ]
    omega

/-- Bit `k` of the sum of R141 is the `k`-th acknowledge. -/
theorem ackSum_testBit (acks : List Bool) (k : Nat) :
    (ackSum acks).testBit k = acks.getD k false := by
  induction acks generalizing k with
  | nil => simp [ackSum]
  | cons a rest ih =>
    cases k with
    | zero => cases a <;> simp [ackSum, Nat.testBit_zero]
    | succ k =>
      have : (a.toNat + 2 * ackSum rest) / 2 = ackSum rest := by
        have : a.toNat ≤ 1 := by cases a <;> simp
        omega
      simpa [ackSum, Nat.testBit_succ, this] using ih k

/-- With at most 17 acknowledges the result registers are in bounds (R26, R130). -/
theorem finish_resultOk (code : ResultCode) (acks : List Bool) (s : State)
    (h : acks.length ≤ 17) : (finish code acks s).ResultOk := by
  have hlt := ackSum_lt acks
  have : 2 ^ acks.length ≤ 2 ^ 17 := Nat.pow_le_pow_right (by decide) h
  refine ⟨h, ?_⟩
  simp only [finish_ackv, finish_ackcnt, BitVec.toNat_ofNat]
  omega

/-- Rejecting a command is finishing it with no acknowledge (R144). -/
theorem finish_nil (code : ResultCode) (s : State) : finish code [] s = s.rejected code := rfl

/-! ### One micro-operation -/

/-- The event of a micro-operation that succeeds, sampling `v` if it is a sample (R82 to R87). -/
def okEvent (v : Level) : Micro → LineEvent
  | .claim l => .claim l true
  | .dir l d => .dir l d true
  | .drv l w => .drv l w true
  | .smp l => .smp l (some v)
  | .hold => .hold
  | .rel l => .rel l

/-- The event of a micro-operation that fails; HOLD and REL do not fail (R82 to R88). -/
def failEvent : Micro → Option LineEvent
  | .claim l => some (.claim l false)
  | .dir l d => some (.dir l d false)
  | .drv l w => some (.drv l w false)
  | .smp l => some (.smp l none)
  | .hold => none
  | .rel _ => none

/-- The state after an event, with the environment's answers `d` left. -/
def State.withEvent (s : State) (e : LineEvent) (d : Draws) : State :=
  { s with
    clk := (applyEvent (s.clk, s.dio) e).1
    dio := (applyEvent (s.clk, s.dio) e).2
    trace := s.trace ++ [e]
    draws := d }

/-- All a micro-operation can do: succeed with its event and that event's effect on the lines, fail with its
event and no effect on them, or be without meaning. -/
theorem runMicro_ends (m : Micro) (s : State) :
    (∃ v d, runMicro m s = .ok (s.withEvent (okEvent v m) d)
      (if m = .smp .clk ∨ m = .smp .dio then some v else none)) ∨
    (∃ e d, failEvent m = some e ∧ runMicro m s = .fail (s.withEvent e d)) ∨
    runMicro m s = .bad := by
  cases m with
  | claim l =>
    simp only [runMicro, microClaim, drawClaimOk_eq]
    split
    · exact .inr (.inr rfl)
    · split
      · refine .inl ⟨.low, s.draws.used 1 0 0, ?_⟩
        cases l <;> rfl
      · refine .inr (.inl ⟨_, s.draws.used 1 0 0, rfl, ?_⟩)
        cases l <;> rfl
  | dir l d =>
    simp only [runMicro, microDir, drawOpOk_eq]
    split
    · split
      · refine .inl ⟨.low, s.draws.used 0 1 0, ?_⟩
        cases l <;> rfl
      · refine .inr (.inl ⟨_, s.draws.used 0 1 0, rfl, ?_⟩)
        cases l <;> rfl
    · exact .inr (.inr rfl)
  | drv l w =>
    simp only [runMicro, microDrv, drawOpOk_eq]
    split
    · split
      · refine .inl ⟨.low, s.draws.used 0 1 0, ?_⟩
        cases l <;> rfl
      · refine .inr (.inl ⟨_, s.draws.used 0 1 0, rfl, ?_⟩)
        cases l <;> rfl
    · exact .inr (.inr rfl)
  | smp l =>
    simp only [runMicro, microSmp, drawOpOk_eq, drawDioLevel_eq]
    split
    · split
      · refine .inl ⟨({ s with draws := s.draws.used 0 1 0 } : State).levelAnswer 0,
          (s.draws.used 0 1 0).used 0 0 1, ?_⟩
        cases l <;> rfl
      · refine .inr (.inl ⟨_, s.draws.used 0 1 0, rfl, ?_⟩)
        cases l <;> rfl
    · exact .inr (.inr rfl)
  | hold => exact .inl ⟨.low, s.draws, rfl⟩
  | rel l =>
    simp only [runMicro, microRel]
    split
    · refine .inl ⟨.low, s.draws, ?_⟩
      cases l <;> rfl
    · exact .inr (.inr rfl)

/-! ### Scripts -/

/-- Without a pending reset none is due (R166). -/
theorem resetDue_of_not_pending {s : State} (h : s.resetPending = false) : s.resetDue = false := by
  unfold State.resetPending at h
  unfold State.resetDue
  split <;> simp_all

@[simp] theorem runScript_nil (s : State) (acks : List Bool) :
    runScript [] s acks = .done s acks := rfl

@[simp] theorem runScript_setXst (x : Xst) (rest : Script) (s : State) (acks : List Bool) :
    runScript (.setXst x :: rest) s acks = runScript rest { s with xst := x } acks := rfl

@[simp] theorem runScript_setLink (l : Link) (rest : Script) (s : State) (acks : List Bool) :
    runScript (.setLink l :: rest) s acks = runScript rest { s with link := l } acks := rfl

/-- One script after another: the second starts where the first ended (R126). -/
theorem runScript_append (a b : Script) (s : State) (acks : List Bool) :
    runScript (a ++ b) s acks =
      match runScript a s acks with
      | .done s' acks' => runScript b s' acks'
      | e => e := by
  induction a generalizing s acks with
  | nil => rfl
  | cons item a ih =>
    cases item with
    | setXst x => simpa using ih _ _
    | setLink l => simpa using ih _ _
    | micro ph m =>
      simp only [List.cons_append, runScript]
      split
      · rfl
      · split
        · exact ih _ _
        · rfl
        · rfl

/-- What a script leaves alone: it appends events to the trace and changes the lines, XST, LINK, the
sequencer and the answers left (R21 to R24). -/
structure ScriptFrame (s t : State) (evs : List LineEvent) : Prop where
  trace : t.trace = s.trace ++ evs
  lines : (t.clk, t.dio) = evs.foldl applyEvent (s.clk, s.dio)
  seq : t.seqIndex = s.seqIndex + evs.length
  err : t.err = s.err
  ackv : t.ackv = s.ackv
  ackcnt : t.ackcnt = s.ackcnt
  bitOrder : t.bitOrder = s.bitOrder
  hold : t.hold = s.hold
  txbuf : t.txbuf = s.txbuf
  params : t.params = s.params
  inputs : t.inputs = s.inputs
  hostRead : t.hostRead = s.hostRead

theorem ScriptFrame.refl (s : State) : ScriptFrame s s [] := by
  constructor <;> simp

theorem ScriptFrame.setXst (s : State) (x : Xst) : ScriptFrame s { s with xst := x } [] := by
  constructor <;> simp [State.seqIndex]

theorem ScriptFrame.setLink (s : State) (l : Link) : ScriptFrame s { s with link := l } [] := by
  constructor <;> simp [State.seqIndex]

theorem ScriptFrame.event (s : State) (ph : Option Phase) (e : LineEvent) (d : Draws) :
    ScriptFrame s ((s.enterPhase ph).withEvent e d).advance [e] := by
  constructor <;> rfl

theorem ScriptFrame.trans {s t u : State} {a b : List LineEvent} (h : ScriptFrame s t a)
    (k : ScriptFrame t u b) : ScriptFrame s u (a ++ b) where
  trace := by rw [k.trace, h.trace, List.append_assoc]
  lines := by rw [k.lines, h.lines, List.foldl_append]
  seq := by rw [k.seq, h.seq, List.length_append, Nat.add_assoc]
  err := k.err.trans h.err
  ackv := k.ackv.trans h.ackv
  ackcnt := k.ackcnt.trans h.ackcnt
  bitOrder := k.bitOrder.trans h.bitOrder
  hold := k.hold.trans h.hold
  txbuf := k.txbuf.trans h.txbuf
  params := k.params.trans h.params
  inputs := k.inputs.trans h.inputs
  hostRead := k.hostRead.trans h.hostRead

/-- The micro-operations of a script, in order. -/
def scriptMicros (sc : Script) : List Micro :=
  sc.filterMap fun item =>
    match item with
    | .micro _ m => some m
    | .setXst _ => none
    | .setLink _ => none

/-- The events are those of the micro-operations, all successful, in order. -/
def OkEvents (ms : List Micro) (evs : List LineEvent) : Prop :=
  List.Forall₂ (fun m e => ∃ v, e = okEvent v m) ms evs

/-- All a script can do. It ends with one successful event for each micro-operation; or it stops at a failed
one, or is cut by a reset before one, after the events of those before it; or it meets a micro-operation
without meaning. The acknowledges are those of its samples. -/
def ScriptEnds (sc : Script) (s : State) (acks : List Bool) (r : ScriptEnd) : Prop :=
  (∃ t evs, r = .done t (acks ++ sampledAcks evs) ∧ ScriptFrame s t evs ∧
    OkEvents (scriptMicros sc) evs) ∨
  (∃ t evs e, r = .failed t (acks ++ sampledAcks evs) ∧
    ScriptFrame s t (evs ++ [e]) ∧ e.failed = true ∧
    ∃ ms m rest, scriptMicros sc = ms ++ m :: rest ∧ OkEvents ms evs ∧ failEvent m = some e) ∨
  (∃ t evs, r = .cut (takeReset t.dropInput) ∧ ScriptFrame s t evs ∧
    t.resetDue = true ∧ ∃ ms rest, scriptMicros sc = ms ++ rest ∧ OkEvents ms evs) ∨
  r = .bad

theorem ScriptEnds.lift {sc sc' : Script} {s s' : State} {acks : List Bool} {r : ScriptEnd}
    (h : ScriptEnds sc s' acks r) (hf : ScriptFrame s s' [])
    (hm : scriptMicros sc' = scriptMicros sc) : ScriptEnds sc' s acks r := by
  rcases h with ⟨t, evs, h, hs, ho⟩ | ⟨t, evs, e, h, hs, hx⟩ | ⟨t, evs, h, hs, hx⟩ | h
  · exact .inl ⟨t, evs, h, hf.trans hs, hm ▸ ho⟩
  · exact .inr (.inl ⟨t, evs, e, h, hf.trans hs, hm ▸ hx⟩)
  · exact .inr (.inr (.inl ⟨t, evs, h, hf.trans hs, hm ▸ hx⟩))
  · exact .inr (.inr (.inr h))

theorem runScript_ends (sc : Script) (s : State) (acks : List Bool) :
    ScriptEnds sc s acks (runScript sc s acks) := by
  induction sc generalizing s acks with
  | nil => exact .inl ⟨s, [], by simp [sampledAcks], .refl s, .nil⟩
  | cons item sc ih =>
    cases item with
    | setXst x => exact (ih _ _).lift (.setXst s x) rfl
    | setLink l => exact (ih _ _).lift (.setLink s l) rfl
    | micro ph m =>
      have hm : scriptMicros (.micro ph m :: sc) = m :: scriptMicros sc := rfl
      by_cases hdue : s.resetDue = true
      · exact .inr (.inr (.inl ⟨s, [], by simp [runScript, hdue], .refl s, hdue, [], _, rfl, .nil⟩))
      have hr : runScript (.micro ph m :: sc) s acks =
          match runMicro m (s.enterPhase ph) with
          | .ok s' sample => runScript sc s'.advance (addSample acks sample)
          | .fail s' => .failed s'.advance acks
          | .bad => .bad := by
        simp only [runScript, hdue]
        rfl
      rcases runMicro_ends m (s.enterPhase ph) with ⟨v, d, h⟩ | ⟨e, d, he, h⟩ | h
      · have hf := ScriptFrame.event s ph (okEvent v m) d
        have hacks : ∀ evs, addSample acks (if m = .smp .clk ∨ m = .smp .dio then some v else none) ++
            sampledAcks evs = acks ++ sampledAcks (okEvent v m :: evs) := fun evs => by
          cases m with
          | smp l => cases l <;> simp [addSample, sampledAcks, okEvent]
          | _ => simp [addSample, sampledAcks, okEvent]
        rw [hr, h]
        unfold ScriptEnds
        rw [hm]
        rcases ih ((s.enterPhase ph).withEvent (okEvent v m) d).advance (addSample acks _) with
          ⟨t, evs, h, hs, ho⟩ | ⟨t, evs, e, h, hs, he, ms, m', rest, hms, ho, hx⟩ |
          ⟨t, evs, h, hs, hdue', ms, rest, hms, ho⟩ | h
        · exact .inl ⟨t, okEvent v m :: evs, h.trans (by rw [hacks]), hf.trans hs, .cons ⟨v, rfl⟩ ho⟩
        · exact .inr (.inl ⟨t, okEvent v m :: evs, e, h.trans (by rw [hacks]), hf.trans hs, he, m :: ms, m',
            rest, by rw [hms, List.cons_append], .cons ⟨v, rfl⟩ ho, hx⟩)
        · exact .inr (.inr (.inl ⟨t, okEvent v m :: evs, h, hf.trans hs, hdue', m :: ms, rest,
            by rw [hms, List.cons_append], .cons ⟨v, rfl⟩ ho⟩))
        · exact .inr (.inr (.inr h))
      · refine .inr (.inl ⟨_, [], e, by rw [hr, h]; simp [sampledAcks], .event s ph e d, ?_, [], m,
          scriptMicros sc, rfl, .nil, he⟩)
        cases m <;> simp [failEvent] at he <;> subst he <;> rfl
      · exact .inr (.inr (.inr (by rw [hr, h])))

/-- A script that ends or fails keeps the frame. -/
theorem runScript_frame {sc : Script} {s t : State} {acks acks' : List Bool}
    (h : runScript sc s acks = .done t acks' ∨ runScript sc s acks = .failed t acks') :
    ∃ evs, ScriptFrame s t evs := by
  rcases runScript_ends sc s acks with ⟨u, evs, k, hf, _⟩ | ⟨u, evs, e, k, hf, _⟩ |
    ⟨u, evs, k, _⟩ | k <;> rw [k] at h <;> simp at h
  · exact ⟨evs, h.1 ▸ hf⟩
  · exact ⟨evs ++ [e], h.1 ▸ hf⟩

/-! ### Which answers a script takes -/

/-- The micro-operations that draw `op_ok` (R39). -/
def Micro.isLineOp : Micro → Bool
  | .dir _ _ => true
  | .drv _ _ => true
  | .smp _ => true
  | .claim _ => false
  | .hold => false
  | .rel _ => false

/-- The micro-operations that draw `dio_level` when they succeed (R39). -/
def Micro.isSample : Micro → Bool
  | .smp _ => true
  | _ => false

/-- CLAIM, which draws `claim_ok` (R39). -/
def Micro.isClaim : Micro → Bool
  | .claim _ => true
  | _ => false

/-- The events of micro-operations that all succeed, the samples reading `levels` in order. -/
def microEvents : List Micro → (Nat → Level) → List LineEvent
  | [], _ => []
  | m :: ms, levels =>
    okEvent (levels 0) m :: microEvents ms fun k => levels (k + m.isSample.toNat)

/-- The line operations among events: how many `op_ok` answers they took. -/
abbrev lineOps (evs : List LineEvent) : Nat := evs.countP (·.isLineOp)

@[simp] theorem okEvent_isLineOp (v : Level) (m : Micro) :
    (okEvent v m).isLineOp = m.isLineOp := by cases m <;> rfl

/-- A micro-operation other than CLAIM without a failed precondition does as its answer says. -/
theorem runMicro_answer (m : Micro) (s : State) (hc : m.isClaim = false) :
    runMicro m s = .bad ∨
    ((m.isLineOp = true → s.opAnswer 0 = true) ∧
      runMicro m s = .ok (s.withEvent (okEvent (s.levelAnswer 0) m)
          (s.draws.used 0 m.isLineOp.toNat m.isSample.toNat))
        (if m.isSample then some (s.levelAnswer 0) else none)) ∨
    (m.isLineOp = true ∧ s.opAnswer 0 = false ∧
      runMicro m s = .fail
        (s.withEvent (okEvent (s.levelAnswer 0) m).failedForm (s.draws.used 0 1 0))) := by
  cases m with
  | claim l => simp [Micro.isClaim] at hc
  | hold => exact .inr (.inl ⟨by simp [Micro.isLineOp], by simp [Micro.isLineOp, Micro.isSample]; rfl⟩)
  | rel l =>
    simp only [runMicro, microRel]
    split
    · exact .inr (.inl ⟨by simp [Micro.isLineOp],
        by cases l <;> simp [Micro.isLineOp, Micro.isSample] <;> rfl⟩)
    · exact .inl rfl
  | dir l d =>
    simp only [runMicro, microDir, drawOpOk_eq]
    split
    · split
      · exact .inr (.inl ⟨fun _ => ‹_›, by cases l <;> rfl⟩)
      · exact .inr (.inr ⟨rfl, by rename_i h; simpa using h, by cases l <;> rfl⟩)
    · exact .inl rfl
  | drv l v =>
    simp only [runMicro, microDrv, drawOpOk_eq]
    split
    · split
      · exact .inr (.inl ⟨fun _ => ‹_›, by cases l <;> rfl⟩)
      · exact .inr (.inr ⟨rfl, by rename_i h; simpa using h, by cases l <;> rfl⟩)
    · exact .inl rfl
  | smp l =>
    simp only [runMicro, microSmp, drawOpOk_eq, drawDioLevel_eq]
    split
    · split
      · refine .inr (.inl ⟨fun _ => ‹_›, ?_⟩)
        cases l <;> simp [Micro.isSample, Micro.isLineOp, State.levelAnswer, Draws.used] <;> rfl
      · exact .inr (.inr ⟨rfl, by rename_i h; simpa using h, by cases l <;> rfl⟩)
    · exact .inl rfl

/-- A script without CLAIM and without a pending reset, told by the answers: its events are those of its
micro-operations up to the first line operation whose answer is a failure, which emits its failed form. -/
theorem runScript_answers (sc : Script) (s : State) (acks : List Bool)
    (hr : s.resetPending = false) (hc : ∀ m ∈ scriptMicros sc, m.isClaim = false) :
    let evs := microEvents (scriptMicros sc) s.levelAnswer
    runScript sc s acks = .bad ∨
    (∃ t, runScript sc s acks = .done t (acks ++ sampledAcks evs) ∧ ScriptFrame s t evs ∧
      s.OpsSucceed (lineOps evs) ∧
      t.draws = s.draws.used 0 (lineOps evs) (sampledAcks evs).length) ∨
    (∃ t pre e rest, evs = pre ++ e :: rest ∧ e.isLineOp = true ∧
      runScript sc s acks = .failed t (acks ++ sampledAcks pre) ∧
      ScriptFrame s t (pre ++ [e.failedForm]) ∧ s.OpsSucceed (lineOps pre) ∧
      s.opAnswer (lineOps pre) = false ∧
      t.draws = s.draws.used 0 (lineOps pre + 1) (sampledAcks pre).length) := by
  induction sc generalizing s acks with
  | nil =>
    refine .inr (.inl ⟨s, ?_, .refl s, fun k hk => absurd hk (Nat.not_lt_zero k), ?_⟩) <;>
      simp [scriptMicros, microEvents, sampledAcks]
  | cons item sc ih =>
    cases item with
    | setXst x =>
      rcases ih { s with xst := x } acks hr hc with h | ⟨t, h, hf, hx⟩ |
        ⟨t, pre, e, rest, h1, h2, h3, hf, hx⟩
      · exact .inl h
      · exact .inr (.inl ⟨t, h, (ScriptFrame.setXst s x).trans hf, hx⟩)
      · exact .inr (.inr ⟨t, pre, e, rest, h1, h2, h3, (ScriptFrame.setXst s x).trans hf, hx⟩)
    | setLink l =>
      rcases ih { s with link := l } acks hr hc with h | ⟨t, h, hf, hx⟩ |
        ⟨t, pre, e, rest, h1, h2, h3, hf, hx⟩
      · exact .inl h
      · exact .inr (.inl ⟨t, h, (ScriptFrame.setLink s l).trans hf, hx⟩)
      · exact .inr (.inr ⟨t, pre, e, rest, h1, h2, h3, (ScriptFrame.setLink s l).trans hf, hx⟩)
    | micro ph m =>
      have hm : scriptMicros (.micro ph m :: sc) = m :: scriptMicros sc := rfl
      have hrun : runScript (.micro ph m :: sc) s acks =
          match runMicro m (s.enterPhase ph) with
          | .ok s' sample => runScript sc s'.advance (addSample acks sample)
          | .fail s' => .failed s'.advance acks
          | .bad => .bad := by
        simp only [runScript, resetDue_of_not_pending hr]
        rfl
      rw [hm] at hc ⊢
      rcases runMicro_answer m (s.enterPhase ph) (hc m (by simp)) with h | ⟨hok, h⟩ | ⟨hl, hno, h⟩
      · exact .inl (by rw [hrun, h])
      · have hf := ScriptFrame.event s ph (okEvent (s.levelAnswer 0) m)
          (s.draws.used 0 m.isLineOp.toNat m.isSample.toNat)
        have hs : ∀ evs, sampledAcks (okEvent (s.levelAnswer 0) m :: evs) =
            (if m.isSample then [ackOf (s.levelAnswer 0)] else []) ++ sampledAcks evs := fun evs => by
          cases m <;> rfl
        have ho : ∀ evs, lineOps (okEvent (s.levelAnswer 0) m :: evs) =
            m.isLineOp.toNat + lineOps evs := fun evs => by
          cases m <;> simp [lineOps, okEvent, LineEvent.isLineOp, Micro.isLineOp, Nat.add_comm]
        have hsl : (if m.isSample then [ackOf (s.levelAnswer 0)] else []).length =
            m.isSample.toNat := by cases m <;> rfl
        have hadd : addSample acks (if m.isSample then some (s.levelAnswer 0) else none) =
            acks ++ (if m.isSample then [ackOf (s.levelAnswer 0)] else []) := by
          cases m <;> simp [addSample, Micro.isSample]
        generalize hs' : ((s.enterPhase ph).withEvent (okEvent (s.levelAnswer 0) m)
          (s.draws.used 0 m.isLineOp.toNat m.isSample.toNat)).advance = s' at hf
        have hop : ∀ k, s'.opAnswer k = s.opAnswer (m.isLineOp.toNat + k) := fun k => by
          subst hs'; exact Source.answer_after _ _ _ _
        have hlv : s'.levelAnswer = fun k => s.levelAnswer (k + m.isSample.toNat) := by
          subst hs'; funext k
          exact (Source.answer_after _ _ _ _).trans (by rw [Nat.add_comm]; rfl)
        have hd : s'.draws = s.draws.used 0 m.isLineOp.toNat m.isSample.toNat := by subst hs'; rfl
        have hr' : s'.resetPending = false := by subst hs'; exact hr
        have hsucc : ∀ n, s'.OpsSucceed n → s.OpsSucceed (m.isLineOp.toNat + n) := fun n hn k hk => by
          by_cases hlt : k < m.isLineOp.toNat
          · cases hb : m.isLineOp <;> simp [hb] at hlt
            subst hlt
            exact hok hb
          · have := hn (k - m.isLineOp.toNat) (by omega)
            rwa [hop, Nat.add_sub_cancel' (by omega)] at this
        have hrun' : runScript (.micro ph m :: sc) s acks = runScript sc s'
            (acks ++ (if m.isSample then [ackOf (s.levelAnswer 0)] else [])) := by
          rw [hrun, h, ← hadd, ← hs']; rfl
        have hev : microEvents (m :: scriptMicros sc) s.levelAnswer =
            okEvent (s.levelAnswer 0) m :: microEvents (scriptMicros sc) s'.levelAnswer := by
          rw [hlv]; rfl
        rw [hrun', hev]
        rcases ih s' (acks ++ (if m.isSample then [ackOf (s.levelAnswer 0)] else [])) hr'
            (fun m' hm' => hc m' (by simp [hm'])) with
          h | ⟨t, h, hf', hx, hdr⟩ | ⟨t, pre, e, rest, h1, h2, h3, hf', hx, hno, hdr⟩
        · exact .inl h
        · refine .inr (.inl ⟨t, by rw [h, hs, List.append_assoc], hf.trans hf', ?_, ?_⟩)
          · rw [ho]; exact hsucc _ hx
          · rw [hdr, hd, ho, hs, List.length_append, hsl, Draws.used_used]
        · refine .inr (.inr ⟨t, okEvent (s.levelAnswer 0) m :: pre, e, rest, by rw [h1]; rfl, h2,
            by rw [h3, hs, List.append_assoc], hf.trans hf', ?_, ?_, ?_⟩)
          · rw [ho]; exact hsucc _ hx
          · rw [ho, ← hop]; exact hno
          · rw [hdr, hd, ho, hs, List.length_append, hsl, Draws.used_used, Nat.add_assoc]
      · refine .inr (.inr ⟨((s.enterPhase ph).withEvent (okEvent (s.levelAnswer 0) m).failedForm
            (s.draws.used 0 1 0)).advance, [], okEvent (s.levelAnswer 0) m, _, rfl, by simpa using hl,
          ?_, .event s ph _ _, fun k hk => absurd hk (Nat.not_lt_zero k), hno, rfl⟩)
        rw [hrun, h]
        simp [sampledAcks]
        rfl

/-! ### The events of the scripts -/

theorem scriptMicros_append (a b : Script) :
    scriptMicros (a ++ b) = scriptMicros a ++ scriptMicros b := List.filterMap_append

theorem microEvents_append (a b : List Micro) (levels : Nat → Level) :
    microEvents (a ++ b) levels =
      microEvents a levels ++ microEvents b fun k => levels (k + a.countP (·.isSample)) := by
  induction a generalizing levels with
  | nil => rfl
  | cons m a ih =>
    have hcount : ∀ k, k + a.countP (·.isSample) + m.isSample.toNat =
        k + (m :: a).countP (·.isSample) := fun k => by
      cases h : m.isSample <;> simp [h, Nat.add_assoc]
    simp only [List.cons_append, microEvents, ih, hcount]

theorem bitScripts_events (slots : List (Fin 8)) (f : Fin 8 → Level) (levels : Nat → Level) :
    microEvents (scriptMicros (slots.flatMap fun i => bitScript i (f i))) levels =
      slots.flatMap fun i => bitEvents (f i) := by
  induction slots with
  | nil => rfl
  | cons i slots ih =>
    rw [List.flatMap_cons, scriptMicros_append, microEvents_append, List.flatMap_cons, ← ih]
    rfl

theorem bitScripts_samples (slots : List (Fin 8)) (f : Fin 8 → Level) :
    (scriptMicros (slots.flatMap fun i => bitScript i (f i))).countP (·.isSample) = 0 := by
  induction slots with
  | nil => rfl
  | cons i slots ih =>
    rw [List.flatMap_cons, scriptMicros_append, List.countP_append, ih]
    rfl

/-- The script of a byte emits the byte's events, the level sampled being the first (R109). -/
theorem sendByteScript_events (order : BitOrder) (b : Byte) (levels : Nat → Level) :
    microEvents (scriptMicros (sendByteScript order b)) levels =
      sendByteEvents order b (levels 0) := by
  rw [sendByteScript, scriptMicros_append, microEvents_append, bitScripts_events, bitScripts_samples]
  rfl

theorem sendByteScript_samples (order : BitOrder) (b : Byte) :
    (scriptMicros (sendByteScript order b)).countP (·.isSample) = 1 := by
  rw [sendByteScript, scriptMicros_append, List.countP_append, bitScripts_samples]
  rfl

theorem bytesScript_events (order : BitOrder) (bs : List Byte) (levels : Nat → Level) :
    microEvents (scriptMicros (bs.flatMap (sendByteScript order))) levels =
      bytesEvents order bs levels := by
  induction bs generalizing levels with
  | nil => rfl
  | cons b bs ih =>
    rw [List.flatMap_cons, scriptMicros_append, microEvents_append, sendByteScript_events,
      sendByteScript_samples, ih]
    rfl

/-- A frame's script emits the frame's events (R126). -/
theorem frameScript_events (order : BitOrder) (bs : List Byte) (levels : Nat → Level) :
    microEvents (scriptMicros (frameScript order bs)) levels = frameEvents order bs levels := by
  have hstart : (scriptMicros startScript).countP (·.isSample) = 0 := rfl
  rw [frameScript, scriptMicros_append, scriptMicros_append, List.append_assoc, microEvents_append,
    microEvents_append, hstart, bytesScript_events, frameEvents, List.append_assoc]
  rfl

/-- No script but OPEN's draws `claim_ok` (R92). -/
theorem frameScript_noClaim (order : BitOrder) (bs : List Byte) :
    ∀ m ∈ scriptMicros (frameScript order bs), m.isClaim = false := by
  have hbyte : ∀ b, ∀ m ∈ scriptMicros (sendByteScript order b), m.isClaim = false := fun b => by
    simp [scriptMicros, sendByteScript, bitSlots, bitScript, ackScript, inPhase, Micro.isClaim]
  have hbytes : ∀ m ∈ scriptMicros (bs.flatMap (sendByteScript order)), m.isClaim = false := by
    induction bs with
    | nil => simp [scriptMicros]
    | cons b bs ih =>
      intro m hm
      rw [List.flatMap_cons, scriptMicros_append, List.mem_append] at hm
      exact hm.elim (hbyte b m) (ih m)
  intro m hm
  rw [frameScript, scriptMicros_append, scriptMicros_append, List.mem_append, List.mem_append] at hm
  rcases hm with (hm | hm) | hm
  · revert m hm; decide
  · exact hbytes m hm
  · revert m hm; decide

/-! ### The end of a command -/

/-- How an admitted command other than OPEN can end (R91, R145, R166). -/
theorem perform_ends {sc : Script} {s t : State} (h : perform sc s = .next t) :
    (∃ s' acks, runScript sc s.beginScript [] = .done s' acks ∧ t = finish .ok acks s'.endScript) ∨
    (∃ s' acks, runScript sc s.beginScript [] = .failed s' acks ∧
      t = finish .ioError acks (abort s').endScript) ∨
    runScript sc s.beginScript [] = .cut t := by
  unfold perform at h
  split at h <;> simp at h
  · exact .inl ⟨_, _, ‹_›, h.symm⟩
  · exact .inr (.inl ⟨_, _, ‹_›, h.symm⟩)
  · exact .inr (.inr (h ▸ ‹_›))

/-- How OPEN can end (R92, R166). -/
theorem performOpen_ends {s t : State} (h : performOpen s = .next t) :
    (∃ s' acks, runStages openStages s.beginScript = .done s' acks ∧
      t = finish .ok [] s'.endScript) ∨
    (∃ s' acks, runStages openStages s.beginScript = .failed s' acks ∧
      t = finish .configurationError [] s'.endScript) ∨
    runStages openStages s.beginScript = .cut t := by
  unfold performOpen at h
  split at h <;> simp at h
  · exact .inl ⟨_, _, ‹_›, h.symm⟩
  · exact .inr (.inl ⟨_, _, ‹_›, h.symm⟩)
  · exact .inr (.inr (h ▸ ‹_›))

/-! ### Admission -/

/-- A command is run when admitted, and otherwise ends with its code and nothing else changed
(R91, R144). -/
theorem ifAdmitted_ends (i : Instr) (s : State)
    (run : State → Host.Outcome State Fault Refusal) :
    (admission i s = .ok ∧ ifAdmitted i s run = run s) ∨
    (admission i s ≠ .ok ∧ ifAdmitted i s run = .next (s.rejected (admission i s))) := by
  unfold ifAdmitted
  split
  · exact .inl ⟨‹_›, rfl⟩
  · exact .inr ⟨‹_›, rfl⟩

/-- Admission reads the command, LINK, XST and the parameters alone (R142). -/
theorem admission_congr (i : Instr) {s t : State} (hl : t.link = s.link) (hx : t.xst = s.xst)
    (hp : t.params = s.params) : admission i t = admission i s := by
  cases i <;> simp [admission, admission.inLink, hl, hx, hp]

/-! ### Reset and the register window -/

/-- Reset keeps nothing of the BBM's state but the trace, with `RST` appended (R165). -/
theorem takeReset_inv (s : State) : (takeReset s).Inv := by
  refine ⟨.inl ⟨?_, rfl, rfl, rfl⟩, rfl, ?_, ?_⟩ <;> simp

/-- Every register is found at its own offset (R29). -/
theorem regAt_offset (r : Reg) : regAt r.offset = some r := by
  cases r with
  | txbuf k => revert k; decide
  | _ => rfl

/-- A register write changes CONFIG and TXBUF alone (R56). -/
theorem writeReg_frame (r : Option Reg) (v : Word) (s : State) :
    ∃ o h b, writeReg r v s = { s with bitOrder := o, hold := h, txbuf := b } := by
  rcases r with _ | r
  · exact ⟨s.bitOrder, s.hold, s.txbuf, rfl⟩
  · cases r with
    | config => exact ⟨orderOfWord v, v.extractLsb' 16 16, s.txbuf, rfl⟩
    | txbuf k => exact ⟨s.bitOrder, s.hold, s.txbuf.set k (v.extractLsb' 0 8), rfl⟩
    | _ => exact ⟨s.bitOrder, s.hold, s.txbuf, rfl⟩

/-- The address of a register less BBM_BASE is its offset (R50). -/
theorem assembleWrite_eq (p : Params) (r : Reg) (v : Nat) :
    assembleWrite p r v = .write 4 r.offset (BitVec.ofNat 32 v) := by
  simp [assembleWrite, memWrite]

theorem assembleRead_eq (p : Params) (r : Reg) : assembleRead p r = .read 4 r.offset := by
  simp [assembleRead, memRead]

end Sys2Proof.Machine
end

