-- ==== Sys2Proof/Laws/PerInstr.lean ====
section
/-! SUPPORT. Statements about every instruction as syntax, one lemma per constructor.
The family RowMatch: the word of an instruction is well formed and matches its own row of the table of
30_encoding.md R68, its OP field naming that row. -/

namespace Sys2Proof.Laws.RowMatch

/-- The row of the table an instruction belongs to (R66). -/
def rowOf : Instr → Op
  | .openLink => .openLink
  | .closeLink => .closeLink
  | .start => .start
  | .writeByte _ => .writeByte
  | .stop => .stop
  | .writeCmd _ => .writeCmd
  | .writeRegBuf _ _ => .writeRegBuf
  | .setBrightness _ => .setBrightness

/-- The word of an instruction names its row in OP and agrees with the row under its mask. -/
def Statement (i : Instr) : Prop :=
  i.wellFormed = true ∧ opOf (encode i) = some (rowOf i) ∧
    encode i &&& (rowOf i).mask = (rowOf i).matchWord

theorem openLink : Statement .openLink := ⟨rfl, by decide, by decide⟩

theorem closeLink : Statement .closeLink := ⟨rfl, by decide, by decide⟩

theorem start : Statement .start := ⟨rfl, by decide, by decide⟩

theorem stop : Statement .stop := ⟨rfl, by decide, by decide⟩

theorem op_with_arg (m : Word) (b : Byte) :
    opOf (m ||| b.zeroExtend 32) = opOf m := by
  have : (m ||| b.zeroExtend 32).extractLsb' 28 4 = m.extractLsb' 28 4 := by
    ext k
    simp [BitVec.getLsbD_of_ge b (28 + k) (by omega)]
  simp only [opOf, this]

theorem mask_with_arg (m : Word) (b : Byte) (h : m &&& 0xFFFFFF00 = m) :
    (m ||| b.zeroExtend 32) &&& 0xFFFFFF00 = m := by
  have : (b.zeroExtend 32 : Word) &&& 0xFFFFFF00 = 0 := by revert b; decide
  rw [BitVec.and_or_distrib_right, h, this]
  exact BitVec.or_zero

theorem writeByte (b : Byte) : Statement (.writeByte b) :=
  ⟨rfl, op_with_arg _ b, mask_with_arg _ b (by decide)⟩

theorem writeCmd (c : Byte) : Statement (.writeCmd c) :=
  ⟨rfl, op_with_arg _ c, mask_with_arg _ c (by decide)⟩

theorem setBrightness (l : Byte) : Statement (.setBrightness l) :=
  ⟨rfl, op_with_arg _ l, mask_with_arg _ l (by decide)⟩

theorem writeRegBuf (r n : Byte) : Statement (.writeRegBuf r n) := by
  refine ⟨rfl, (op_with_arg _ r).trans ?_, ?_⟩
  · change opOf (0x70000000 ||| (n.zeroExtend 32 <<< 16)) = some .writeRegBuf
    revert n; decide
  · have hr : (r.zeroExtend 32 : Word) &&& 0xFF00FF00 = 0 := by revert r; decide
    have hn : (0x70000000 ||| (n.zeroExtend 32 <<< 16) : Word) &&& 0xFF00FF00 = 0x70000000 := by
      revert n; decide
    change (0x70000000 ||| (n.zeroExtend 32 <<< 16) ||| r.zeroExtend 32 : Word) &&& 0xFF00FF00 = _
    rw [BitVec.and_or_distrib_right, hr, hn]
    rfl

end Sys2Proof.Laws.RowMatch
end

