-- ==== Sys2Proof/Tests/Slice0.lean ====
section
/-! SUPPORT. Tests. The expected results are those of spec/95_test_vectors.md (the vector is named in each
test) or of the spec's tables; the parameters are its default conditions. The witnesses at the end show
states and operands that meet the hypotheses of the statements. -/

namespace Sys2Proof.Tests

open Sys2Proof.Machine

/-! ### States and readings -/

/-- The parameters of the default conditions of 95_test_vectors.md. -/
def exampleParams : Params where
  bbmBase := 0x1000
  pinClk := 1
  pinDio := 2
  bitOrderReset := .msbFirst
  holdReset := 0
  holdUnit := 1
  maxPayload := 4
  brightnessMax := 7
  brightnessCmd := 0x88
  addrHeader := 0
  hostBusStallOk := true

/-- After reset, with the answers of the environment given. -/
def fresh (claims ops : List Bool) (levels : List Level) : State :=
  { State.resetWith exampleParams with draws := ⟨⟨claims, 0⟩, ⟨ops, 0⟩, ⟨levels, 0⟩⟩ }

/-- LINK = OPEN, XST = IDLE. -/
def idle (ops : List Bool) (levels : List Level) : State :=
  { fresh [] ops levels with link := .opened, clk := .driven .high, dio := .driven .high }

/-- LINK = OPEN, XST = INFRAME, as after a START. -/
def inFrame (ops : List Bool) (levels : List Level) : State :=
  { idle ops levels with xst := .inframe, clk := .driven .low, dio := .driven .low }

/-- LINK = OPEN, XST = ABORTED. -/
def aborted (ops : List Bool) : State :=
  { idle ops [] with xst := .aborted, clk := .unknown, dio := .unknown }

/-- LINK = CLOSED. -/
def closed : State := { fresh [] [] [] with link := .closed }

/-- `n` successful operations. -/
def yes (n : Nat) : List Bool := List.replicate n true

/-- `n` successful operations, then one that fails. -/
def failAfter (n : Nat) : List Bool := yes n ++ [false]

/-- `n` samples in which the target acknowledges. -/
def acked (n : Nat) : List Level := List.replicate n .low

/-- Whether an outcome is a next state. -/
def isNext (o : Host.Outcome State Fault Refusal) : Bool :=
  match o with
  | .next _ => true
  | .fault _ => false
  | .refused _ => false

/-- The next state of an outcome, or `s` if there is none. -/
def endOf (s : State) (o : Host.Outcome State Fault Refusal) : State :=
  match o with
  | .next t => t
  | .fault _ => s
  | .refused _ => s

theorem eq_next (s : State) (o : Host.Outcome State Fault Refusal) (h : isNext o = true) :
    o = .next (endOf s o) := by
  cases o <;> simp_all [isNext, endOf]

/-- STATUS and ACK after an outcome. -/
def result (o : Host.Outcome State Fault Refusal) : Option (Word × Word) :=
  match o with
  | .next t => some (statusWord t, t.ackv)
  | .fault _ => none
  | .refused _ => none

/-- The trace after an outcome. -/
def traceOf (o : Host.Outcome State Fault Refusal) : List LineEvent :=
  match o with
  | .next t => t.trace
  | .fault _ => []
  | .refused _ => []

/-- The lines after an outcome. -/
def linesOf (o : Host.Outcome State Fault Refusal) : Option Wires :=
  match o with
  | .next t => some (t.clk, t.dio)
  | .fault _ => none
  | .refused _ => none

/-- What the host has read after an outcome. -/
def readOf (o : Host.Outcome State Fault Refusal) : Option Word :=
  match o with
  | .next t => t.hostRead
  | .fault _ => none
  | .refused _ => none

/-- The levels of DIO in the bit-pulses of a trace. -/
def bitsOf (r : Receiver) (evs : List LineEvent) : List Level :=
  (wireSymbols r evs).filterMap fun x =>
    match x with
    | .bit v => some v
    | _ => none

/-! ### Well-formedness: one ill-formed term for each check -/

theorem test_wf_op_zero : Word.opDefined 0x00000000 = false := by decide
theorem test_wf_op_nine : Word.opDefined 0x90000000 = false := by decide
theorem test_wf_rsva : Word.rsvaZero 0x41000000 = false := by decide
theorem test_wf_rsvb : Word.rsvbZero 0x40000100 = false := by decide
theorem test_wf_len : Word.lenZeroIfUnused 0x30010000 = false := by decide
theorem test_wf_arg : Word.argZeroIfUnused 0x50000080 = false := by decide
theorem test_wf_legal : Word.legal 0x700500C0 = true := by decide
theorem test_wf_literal : literalFits 8 256 = false := by decide
theorem test_wf_max_payload : maxPayloadOf 17 = none ∧ maxPayloadOf 16 = some 16 := by decide
theorem test_wf_statement : stmtWellFormed (.wrbyte 256) = false := by decide
theorem test_wf_txload :
    stmtWellFormed (.txload []) = false ∧ stmtWellFormed (.txload (List.replicate 17 0)) = false ∧
      stmtWellFormed (.txload [256]) = false := by decide
theorem test_wf_wrregbuf :
    stmtWellFormed (.wrregbuf 0xC0 (List.replicate 17 0)) = false ∧
      stmtWellFormed (.wrregbuf 0xC0 []) = true := by decide
theorem test_wf_instr : Instr.wellFormed (.writeRegBuf 0xC0 255) = true := by decide

/-! ### Decoding: the patterns of R68 with the operand bits written out -/

theorem test_decode_open : decode 0b00010000000000000000000000000000 = .command .openLink := by
  decide
theorem test_decode_close : decode 0b00100000000000000000000000000000 = .command .closeLink := by
  decide
theorem test_decode_start : decode 0b00110000000000000000000000000000 = .command .start := by decide
theorem test_decode_write_byte :
    decode 0b01000000000000000000000011000001 = .command (.writeByte 0xC1) := by decide
theorem test_decode_stop : decode 0b01010000000000000000000000000000 = .command .stop := by decide
theorem test_decode_write_cmd :
    decode 0b01100000000000000000000001000000 = .command (.writeCmd 0x40) := by decide
theorem test_decode_write_reg_buf :
    decode 0b01110000000001000000000011000000 = .command (.writeRegBuf 0xC0 4) := by decide
theorem test_decode_set_brightness :
    decode 0b10000000000000000000000000000111 = .command (.setBrightness 7) := by decide
/-- V-REJ-1, V-REJ-2. -/
theorem test_decode_reserved_op :
    decode 0x00000000 = .illegal .reservedOp ∧ decode 0x90000000 = .illegal .reservedOp ∧
      decode 0xF0000000 = .illegal .reservedOp := by decide
/-- V-REJ-3, V-REJ-5, V-WB-10. -/
theorem test_decode_reserved_bits :
    decode 0x10000001 = .illegal .reservedBits ∧ decode 0x30010000 = .illegal .reservedBits ∧
      decode 0x40000100 = .illegal .reservedBits := by decide
theorem test_decode_table_word : decodeTableWord 32 0x70FF00C0 = some (.writeRegBuf 0xC0 255) := by
  decide
theorem test_encode : encode (.writeRegBuf 0xC0 2) = 0x700200C0 := by decide

/-! ### Commands -/

/-- V-OPEN-1. -/
theorem test_open :
    result (exec .openLink (fresh [true, true] (yes 2) [])) = some (0x00000001, 0) := by decide
/-- V-OPEN-5. -/
theorem test_open_dir_fails :
    traceOf (exec .openLink (fresh [true, true] (failAfter 1) [])) =
      [.claim .clk true, .claim .dio true, .dir .clk .output true, .hold, .dir .dio .output false,
        .rel .clk, .rel .dio] := by decide
/-- V-CLOSE-4. -/
theorem test_close_aborted :
    result (exec .closeLink (aborted [])) = some (0x00000002, 0) ∧
      linesOf (exec .closeLink (aborted [])) = some (.released, .released) := by decide
/-- V-CLOSE-1. -/
theorem test_close_unopened : exec .closeLink (fresh [] [] []) = .next (fresh [] [] []) := rfl
/-- V-START-1. -/
theorem test_start : result (exec .start (idle (yes 2) [])) = some (0x00000005, 0) := by decide
/-- V-START-2. -/
theorem test_start_fails :
    result (exec .start (idle (failAfter 1) [])) = some (0x00000309, 0) ∧
      traceOf (exec .start (idle (failAfter 1) [])) =
        [.drv .dio .low true, .hold, .drv .clk .low false] := by decide
/-- V-WB-1 and the DIO levels of 0xC1. -/
theorem test_write_byte :
    result (exec (.writeByte 0xC1) (inFrame (yes 29) (acked 1))) = some (0x00010005, 1) ∧
      bitsOf ⟨.low, .low, false, false⟩
          (traceOf (exec (.writeByte 0xC1) (inFrame (yes 29) (acked 1)))) =
        [.high, .high, .low, .low, .low, .low, .low, .high] := by decide
/-- V-WB-8. -/
theorem test_write_byte_fails_after_sample :
    result (exec (.writeByte 0xC1) (inFrame (failAfter 28) (acked 1))) = some (0x00010309, 1) ∧
      (traceOf (exec (.writeByte 0xC1) (inFrame (failAfter 28) (acked 1)))).length = 56 := by decide
/-- V-STOP-4. -/
theorem test_stop_fails :
    result (exec .stop (inFrame (failAfter 1) [])) = some (0x00000309, 0) ∧
      linesOf (exec .stop (inFrame (failAfter 1) [])) = some (.unknown, .unknown) := by decide
/-- V-REC-1. -/
theorem test_stop_recovers :
    result (exec .stop (aborted (yes 6))) = some (0x00000001, 0) ∧
      traceOf (exec .stop (aborted (yes 6))) =
        [.dir .clk .output true, .hold, .drv .clk .low true, .hold, .dir .dio .output true, .hold,
          .drv .dio .low true, .hold, .drv .clk .high true, .hold, .drv .dio .high true, .hold] := by
  decide
/-- V-CMD-1. -/
theorem test_write_cmd :
    result (exec (.writeCmd 0xC1) (idle (yes 34) (acked 1))) = some (0x00010001, 1) ∧
      (traceOf (exec (.writeCmd 0xC1) (idle (yes 34) (acked 1)))).length = 67 := by decide +kernel
/-- V-CMD-5. -/
theorem test_write_cmd_fails_at_stop :
    result (exec (.writeCmd 0xC1) (idle (failAfter 33) (acked 1))) = some (0x00010309, 1) := by decide
/-- The conditions of V-WRREG-7: the 87th line operation, the third byte's SMP, fails. -/
def wrregFails : State :=
  { idle (failAfter 86) (acked 3) with txbuf := ((Vector.replicate 16 0).set 0 0x06).set 1 0x5B }

/-- V-WRREG-7: the 171 events end with the failed sample; the target has read two bytes and the bits of 0x5B. -/
theorem test_write_reg_buf_fails :
    result (exec (.writeRegBuf 0xC0 2) wrregFails) = some (0x00020309, 3) ∧
      (traceOf (exec (.writeRegBuf 0xC0 2) wrregFails)).length = 171 ∧
      (traceOf (exec (.writeRegBuf 0xC0 2) wrregFails)).getLast? = some (.smp .dio none) ∧
      receivedBytes .msbFirst 0
        (wireSymbols .idle (traceOf (exec (.writeRegBuf 0xC0 2) wrregFails))) = [0xC0, 0x06] ∧
      (bitsOf .idle (traceOf (exec (.writeRegBuf 0xC0 2) wrregFails))).drop 16 =
        [.low, .high, .low, .high, .high, .low, .high, .high] := by decide +kernel
/-- V-WRREG-5. -/
theorem test_write_reg_buf_too_long :
    result (exec (.writeRegBuf 0xC0 5) (idle [] [])) = some (0x00000201, 0) := by decide
/-- V-BRI-2: the DIO levels of 0x88 and 0x8B. -/
theorem test_set_brightness :
    bitsOf .idle (traceOf (exec (.setBrightness 3) (idle (yes 63) (acked 2)))) =
      [.high, .low, .low, .low, .high, .low, .low, .low,
        .high, .low, .low, .low, .high, .low, .high, .high] := by decide +kernel
/-- V-BRI-4. -/
theorem test_set_brightness_too_high :
    result (exec (.setBrightness 8) (idle [] [])) = some (0x00000201, 0) := by decide

/-! ### Steps -/

/-- V-REJ-6, with the word placed by `withFetchWord` after reset. -/
theorem test_step_first_command :
    result (step (State.reset.withFetchWord 32 0x40000001)) = some (0x00000400, 0) := by decide
/-- V-REJ-1. -/
theorem test_step_illegal_word :
    result (step (State.reset.withFetchWord 32 0)) = some (0x00000600, 0) := by decide
/-- V-REG-3, the write. -/
theorem test_step_config_write :
    configWord (endOf (fresh [] [] [])
      (step { fresh [] [] [] with inputs := [.access (.write 4 0x0C 0xFFFFFFFF)] })) = 0xFFFF0001 := by
  decide
/-- V-REG-4, the read. -/
theorem test_step_txbuf_read :
    readOf (step
      { fresh [] [] [] with
        txbuf := (Vector.replicate 16 0).set 3 0x78, inputs := [.access (.read 4 0x4C)] }) =
      some 0x78 := by decide
/-- V-REG-7. -/
theorem test_step_refuses :
    step { fresh [] [] [] with inputs := [.access (.read 1 4)] } = .refused .accessWidth ∧
      step { fresh [] [] [] with inputs := [.access (.read 4 6)] } = .refused .accessMisaligned ∧
      step { fresh [] [] [] with inputs := [.access (.read 4 0x80)] } =
        .refused .accessOutsideWindow := ⟨rfl, rfl, rfl⟩
/-- V-RST-2. -/
theorem test_reset_in_command :
    traceOf (exec (.writeCmd 0xC1) { idle (yes 34) (acked 1) with inputs := [.reset 10] }) =
      startEvents ++ bitEvents .high ++ [.rst] := by decide
/-- Program P2, steps 1 and 4, as one pseudo-instruction (R72). -/
theorem test_assemble_wrregbuf :
    assemble exampleParams (.wrregbuf 0xC0 [0x06, 0xDB]) =
      some [.write 4 0x40 0x06, .write 4 0x44 0xDB, .write 4 0 0x700200C0] := by decide
/-- Program P1, statement 1. -/
theorem test_assemble_cfg :
    assemble exampleParams (.cfg .msbFirst 10) = some [.write 4 0x0C 0x000A0000] := by decide

/-! ### Witnesses: states and operands that meet the hypotheses of the statements -/

/-- A state whose next pending input is the write of a command word. -/
def withCmd (s : State) (w : Word) : State := { s with inputs := [cmdWrite w] }

theorem witness_DecodeOfEncode : Instr.wellFormed (.writeRegBuf 0xC0 0xFF) = true := by decide
theorem witness_EncodeOfDecode : decode 0x70FF00C0 = .command (.writeRegBuf 0xC0 0xFF) := by decide
theorem witness_StepRunsDecodedCommand :
    (withCmd (fresh [] [] []) 0x30000000).inputs = [cmdWrite 0x30000000] ∧
      decode 0x30000000 = .command .start := by decide
theorem witness_StepRunsDecodedCommand_table :
    decodeTableWord 32 0x30000000 = some .start := by decide
theorem witness_IllegalWordChangesResultOnly :
    (withCmd (idle [] []) 0x40000100).inputs = [cmdWrite 0x40000100] ∧
      Word.legal 0x40000100 = false := by decide
theorem witness_StepWaitsForHostAccess : (idle [] []).inputs = [] := rfl
theorem witness_StepExtendsTraceKeepsParams :
    ∃ t, step (withCmd (idle (yes 2) []) 0x30000000) = .next t :=
  ⟨_, eq_next (idle [] []) _ (by decide)⟩
theorem witness_ResetStepSetsEveryField :
    ({ inFrame [] [] with inputs := [.reset 7] } : State).inputs = [.reset 7] := rfl

/-- START about to run with a reset due after `n` micro-operations. -/
def startWithReset (n : Nat) : State := { idle (yes 2) [] with inputs := [.reset n] }

theorem witness_ResetCutsCommand :
    ∃ t evs, (startWithReset 3).inputs = [.reset 3] ∧
      exec .start { startWithReset 3 with inputs := [] } = .next t ∧
      t.trace = (startWithReset 3).trace ++ evs ∧ 3 < evs.length :=
  ⟨_, startEvents, rfl, eq_next (idle [] []) _ (by decide), by decide, by decide⟩
theorem witness_ResetCutsCommand_first :
    ∃ t evs, (startWithReset 0).inputs = [.reset 0] ∧
      exec .start { startWithReset 0 with inputs := [] } = .next t ∧
      t.trace = (startWithReset 0).trace ++ evs ∧ 0 < evs.length :=
  ⟨_, startEvents, rfl, eq_next (idle [] []) _ (by decide), by decide, by decide⟩
theorem witness_LateResetLeavesCommand :
    ∃ t evs, (startWithReset 4).inputs = [.reset 4] ∧
      exec .start { startWithReset 4 with inputs := [] } = .next t ∧
      t.trace = (startWithReset 4).trace ++ evs ∧ evs.length ≤ 4 :=
  ⟨_, startEvents, rfl, eq_next (idle [] []) _ (by decide), by decide, by decide⟩
theorem witness_StepKeepsInvariant :
    (withCmd (idle (failAfter 1) []) 0x30000000).Inv ∧
      ∃ t, step (withCmd (idle (failAfter 1) []) 0x30000000) = .next t :=
  ⟨by decide, _, eq_next (idle [] []) _ (by decide)⟩
theorem witness_EveryCommandEnds : (inFrame (failAfter 3) []).Inv ∧ (aborted []).Inv := by decide
theorem witness_NoBadLineOp : (withCmd (aborted (failAfter 2)) 0x50000000).Inv := by decide
theorem witness_ClosedUntilReset :
    closed.link = .closed ∧ (∃ t, step (withCmd closed 0x10000000) = .next t) ∧
      Instr.openLink ≠ .closeLink :=
  ⟨rfl, ⟨_, eq_next closed _ (by decide)⟩, by decide⟩
theorem witness_AdmissionFollowsTable :
    decode 0x90000000 = .illegal .reservedOp ∧
      (withCmd closed 0x90000000).inputs = [cmdWrite 0x90000000] := by decide
/-- V-REJ-11: SEQUENCE_ERROR wins over INVALID_ARGUMENT. -/
theorem witness_RejectionChangesResultOnly :
    admitWord 0x800000FF { withCmd (inFrame [] []) 0x800000FF with inputs := [] } = .sequenceError := by
  decide

/-- Before OPEN, with the given answers. -/
abbrev beforeOpen (claims ops : List Bool) : Prop :=
  (fresh claims ops []).LinesReleased ∧ (fresh claims ops []).link = .unopened ∧
    (fresh claims ops []).resetPending = false

theorem witness_OpenClaimsLines :
    beforeOpen [true, true] (yes 2) ∧ (fresh [true, true] (yes 2) []).claimAnswer 0 = true ∧
      (fresh [true, true] (yes 2) []).claimAnswer 1 = true ∧
      (fresh [true, true] (yes 2) []).OpsSucceed 2 := by decide
theorem witness_OpenFailure_first_claim :
    beforeOpen [false] [] ∧ (fresh [false] [] []).claimAnswer 0 = false := by decide
theorem witness_OpenFailure_second_claim :
    beforeOpen [true, false] [] ∧ (fresh [true, false] [] []).claimAnswer 0 = true ∧
      (fresh [true, false] [] []).claimAnswer 1 = false := by decide
theorem witness_OpenFailure_first_dir :
    beforeOpen [true, true] [false] ∧ (fresh [true, true] [false] []).claimAnswer 0 = true ∧
      (fresh [true, true] [false] []).claimAnswer 1 = true ∧
      (fresh [true, true] [false] []).opAnswer 0 = false := by decide
theorem witness_OpenFailure_second_dir :
    beforeOpen [true, true] [true, false] ∧
      (fresh [true, true] [true, false] []).claimAnswer 0 = true ∧
      (fresh [true, true] [true, false] []).claimAnswer 1 = true ∧
      (fresh [true, true] [true, false] []).opAnswer 0 = true ∧
      (fresh [true, true] [true, false] []).opAnswer 1 = false := by decide
theorem witness_OpenMakesNoEdge :
    beforeOpen [true, true] [true, false] ∧
      ∃ t, exec .openLink (fresh [true, true] [true, false] []) = .next t :=
  ⟨by decide, _, eq_next closed _ (by decide)⟩
theorem witness_CloseReleasesLines :
    (aborted []).link = .opened ∧ (aborted []).clk.claimed = true ∧
      (aborted []).dio.claimed = true ∧ (aborted []).resetPending = false := by decide
theorem witness_CloseTwiceReleasesOnce :
    (inFrame [] []).Inv ∧ ∃ t, exec .closeLink (inFrame [] []) = .next t :=
  ⟨by decide, _, eq_next closed _ (by decide)⟩
theorem witness_StartOpensTransaction :
    (idle (yes 2) []).BusIdle ∧ (idle (yes 2) []).resetPending = false ∧
      (idle (yes 2) []).OpsSucceed 2 := by decide
theorem witness_WriteByteSendsByte :
    (inFrame (yes 29) [.high]).InFrame ∧ (inFrame (yes 29) [.high]).resetPending = false ∧
      (inFrame (yes 29) [.high]).OpsSucceed 29 := by decide
theorem witness_StopClosesTransaction :
    (inFrame (yes 3) []).InFrame ∧ (inFrame (yes 3) []).resetPending = false ∧
      (inFrame (yes 3) []).OpsSucceed 3 := by decide
theorem witness_RecoveryStopRestoresIdleBus :
    (aborted (yes 6)).BusAborted ∧ (aborted (yes 6)).resetPending = false ∧
      (aborted (yes 6)).OpsSucceed 6 := by decide
theorem witness_FailedRecoveryStaysAborted :
    (aborted (failAfter 5)).Inv ∧ (aborted (failAfter 5)).BusAborted ∧
      (aborted (failAfter 5)).resetPending = false ∧ ¬ (aborted (failAfter 5)).OpsSucceed 6 := by
  decide
theorem witness_WriteCmdSendsFrame :
    (idle (yes 34) (acked 1)).BusIdle ∧ (idle (yes 34) (acked 1)).resetPending = false ∧
      (idle (yes 34) (acked 1)).OpsSucceed 34 := by decide
theorem witness_WriteRegBuf_no_payload :
    (idle (yes 34) []).BusIdle ∧ (idle (yes 34) []).resetPending = false ∧
      (0 : Byte).toNat ≤ (idle (yes 34) []).params.maxPayload.val ∧
      (idle (yes 34) []).OpsSucceed (34 + 29 * (0 : Byte).toNat) := by decide
theorem witness_WriteRegBuf_full_payload :
    (idle (yes 150) []).BusIdle ∧ (idle (yes 150) []).resetPending = false ∧
      (4 : Byte).toNat ≤ (idle (yes 150) []).params.maxPayload.val ∧
      (idle (yes 150) []).OpsSucceed (34 + 29 * (4 : Byte).toNat) := by decide +kernel
theorem witness_SetBrightness :
    (idle (yes 63) []).BusIdle ∧ (idle (yes 63) []).resetPending = false ∧
      (7 : Byte) ≤ (idle (yes 63) []).params.brightnessMax ∧ (idle (yes 63) []).OpsSucceed 63 := by
  decide
theorem witness_LineFailureAborts :
    (idle (failAfter 33) []).Inv ∧ (idle (failAfter 33) []).resetPending = false ∧
      Instr.writeCmd 0xC1 ≠ .openLink ∧
      admissionCell exampleParams (.writeCmd 0xC1) (columnOf (idle (failAfter 33) [])) = .run ∧
      ¬ (idle (failAfter 33) []).OpsSucceed
        (commandLineOps (idle (failAfter 33) []) (.writeCmd 0xC1)) := by decide
theorem witness_SuccessfulCommandLength :
    (idle (yes 34) []).Inv ∧ (idle (yes 34) []).resetPending = false ∧
      admissionCell exampleParams (.writeCmd 0xC1) (columnOf (idle (yes 34) [])) = .run ∧
      (idle (yes 34) []).OpsSucceed (commandLineOps (idle (yes 34) []) (.writeCmd 0xC1)) ∧
      Instr.writeCmd 0xC1 ≠ .openLink := by decide
theorem witness_SuccessfulCommandLength_open :
    (fresh [true, true] (yes 2) []).Inv ∧ (fresh [true, true] (yes 2) []).resetPending = false ∧
      admissionCell exampleParams .openLink (columnOf (fresh [true, true] (yes 2) [])) = .run ∧
      (fresh [true, true] (yes 2) []).OpsSucceed
        (commandLineOps (fresh [true, true] (yes 2) []) .openLink) ∧
      (fresh [true, true] (yes 2) []).claimAnswer 0 = true ∧
      (fresh [true, true] (yes 2) []).claimAnswer 1 = true := by decide

/-- A byte whose last line operation fails, from an open transaction. -/
theorem witness_command_with_failure :
    (inFrame (failAfter 28) [.low]).Inv ∧ (inFrame (failAfter 28) [.low]).link = .opened ∧
      (inFrame (failAfter 28) [.low]).xst ≠ .aborted ∧
      (inFrame (failAfter 28) [.low]).resetPending = false ∧
      Instr.writeByte 0xC1 ≠ .openLink ∧ Instr.writeByte 0xC1 ≠ .closeLink ∧
      ∃ t, exec (.writeByte 0xC1) (inFrame (failAfter 28) [.low]) = .next t :=
  ⟨by decide, rfl, by decide, rfl, by decide, by decide, _, eq_next closed _ (by decide)⟩
theorem witness_AcknowledgesReportSamples :
    (inFrame (failAfter 28) [.low]).resetPending = false ∧
      ∃ t, exec (.writeByte 0xC1) (inFrame (failAfter 28) [.low]) = .next t :=
  ⟨rfl, witness_command_with_failure.2.2.2.2.2.2⟩
theorem witness_TransactionStateFollowsTable :
    (inFrame (failAfter 28) [.low]).Inv ∧ (inFrame (failAfter 28) [.low]).link = .opened ∧
      (inFrame (failAfter 28) [.low]).resetPending = false ∧
      ∃ t, exec (.writeByte 0xC1) (inFrame (failAfter 28) [.low]) = .next t :=
  ⟨by decide, rfl, rfl, witness_command_with_failure.2.2.2.2.2.2⟩
theorem witness_CommandFrame :
    (inFrame (failAfter 28) [.low]).resetPending = false ∧
      (∃ t, exec (.writeByte 0xC1) (inFrame (failAfter 28) [.low]) = .next t) ∧
      Instr.writeByte 0xC1 ≠ .openLink ∧ Instr.writeByte 0xC1 ≠ .closeLink :=
  ⟨rfl, witness_command_with_failure.2.2.2.2.2.2, by decide, by decide⟩
theorem witness_DioChangesOnlyWhileClkLow :
    (inFrame (failAfter 28) [.low]).Inv ∧ (inFrame (failAfter 28) [.low]).xst ≠ .aborted ∧
      Instr.writeByte 0xC1 ≠ .openLink ∧
      ∃ t, exec (.writeByte 0xC1) (inFrame (failAfter 28) [.low]) = .next t :=
  ⟨by decide, by decide, by decide, witness_command_with_failure.2.2.2.2.2.2⟩
/-- Section 2.1 of 95_test_vectors.md: the start edge is event 0 and the stop edge event 65 of `WRCMD 0xC1`, and
neither may be missing from the exceptions. -/
theorem witness_DioChangesOnlyWhileClkLow_edges :
    (idle (yes 34) (acked 1)).Inv ∧ (idle (yes 34) (acked 1)).xst ≠ .aborted ∧
      startEdgeAt (.writeCmd 0xC1) = some 0 ∧
      stopEdgeAt (idle (yes 34) (acked 1)) (.writeCmd 0xC1) = some 65 ∧
      (∃ t, exec (.writeCmd 0xC1) (idle (yes 34) (acked 1)) = .next t) ∧
      protocolSafe none (some 65) 0 (.driven .high, .driven .high)
        (traceOf (exec (.writeCmd 0xC1) (idle (yes 34) (acked 1)))) = false ∧
      protocolSafe (some 0) none 0 (.driven .high, .driven .high)
        (traceOf (exec (.writeCmd 0xC1) (idle (yes 34) (acked 1)))) = false :=
  ⟨by decide, by decide, rfl, rfl, ⟨_, eq_next closed _ (by decide +kernel)⟩, by decide +kernel,
    by decide +kernel⟩
theorem witness_NoDirInOrSampleOfClk :
    ∃ t, exec (.writeByte 0xC1) (inFrame (failAfter 28) [.low]) = .next t :=
  witness_command_with_failure.2.2.2.2.2.2
theorem witness_HoldFollowsEveryLineWrite :
    (idle (yes 2) []).resetPending = false ∧ ∃ t, exec .start (idle (yes 2) []) = .next t :=
  ⟨rfl, _, eq_next closed _ (by decide)⟩
/-- The hypotheses of WriteRegBufByteExact are those of WriteRegBufSendsFrame, at both ends of its range. -/
theorem witness_WriteRegBufByteExact :
    (idle (yes 150) []).BusIdle ∧ (idle (yes 150) []).resetPending = false ∧
      (4 : Byte).toNat ≤ (idle (yes 150) []).params.maxPayload.val ∧
      (idle (yes 150) []).OpsSucceed (34 + 29 * (4 : Byte).toNat) := witness_WriteRegBuf_full_payload
theorem witness_CommandBytesReachTarget :
    (idle (yes 63) []).BusIdle ∧ (idle (yes 63) []).resetPending = false ∧
      (idle (yes 63) []).OpsSucceed 34 ∧ (7 : Byte) ≤ (idle (yes 63) []).params.brightnessMax ∧
      (idle (yes 63) []).OpsSucceed 63 := by decide
theorem witness_WriteByteNinePulses :
    (inFrame (yes 29) [.high]).InFrame ∧ (inFrame (yes 29) [.high]).resetPending = false ∧
      (inFrame (yes 29) [.high]).OpsSucceed 29 := witness_WriteByteSendsByte

/-- Another TXBUF that agrees with an empty one below entry 1. -/
def otherTxbuf : Vector Byte 16 := (Vector.replicate 16 0).set 1 0x55

theorem witness_EntriesFromLenOnAreNotRead :
    (idle (yes 63) (acked 2)).resetPending = false ∧
      (∀ k : Fin 16, k.val < (1 : Byte).toNat →
        otherTxbuf[k] = (idle (yes 63) (acked 2)).txbuf[k]) ∧
      ∃ t, exec (.writeRegBuf 0xC0 1) (idle (yes 63) (acked 2)) = .next t :=
  ⟨rfl, by decide, _, eq_next closed _ (by decide +kernel)⟩
theorem witness_HoldValueIsTimingOnly :
    (idle (yes 2) []).resetPending = false ∧ ∃ t, exec .start (idle (yes 2) []) = .next t :=
  witness_HoldFollowsEveryLineWrite

/-- A state with one pending access. -/
def withAccess (a : Access) : State := { idle [] [] with inputs := [.access a] }

theorem witness_OnlyAlignedWordAccessesAreServed :
    (withAccess (.read 4 0x7C)).inputs = [.access (.read 4 0x7C)] ∧
      (withAccess (.write 2 0x7E 0)).inputs = [.access (.write 2 0x7E 0)] ∧
      (withAccess (.read 4 (-4))).inputs = [.access (.read 4 (-4))] := ⟨rfl, rfl, rfl⟩
theorem witness_ReadsReturnRegisters :
    (withAccess (.read 4 (Reg.txbuf 15).offset)).inputs =
      [.access (.read 4 (Reg.txbuf 15).offset)] := rfl
theorem witness_Reserved_read_low :
    4 ≤ 4 ∧ 4 < 16 ∧ (withAccess (.read 4 (4 * 4 : Nat))).inputs =
      [.access (.read 4 (4 * 4 : Nat))] := by decide
theorem witness_Reserved_write_high :
    4 ≤ 15 ∧ 15 < 16 ∧ (withAccess (.write 4 (4 * 15 : Nat) 7)).inputs =
      [.access (.write 4 (4 * 15 : Nat) 7)] := by decide
theorem witness_ReadOnly_write :
    (1 = 1 ∨ 1 = 2) ∧ (withAccess (.write 4 (4 * 1 : Nat) 7)).inputs =
      [.access (.write 4 (4 * 1 : Nat) 7)] := by decide
theorem witness_StatusFieldsInPlace : ({ idle [] [] with ackcnt := 17 } : State).ackcnt ≤ 17 := by
  decide
theorem witness_ConfigReadsBack :
    ({ idle [] [] with
        inputs := [.access (.write 4 0x0C 0xFFFFFFFF), .access (.read 4 0x0C)] } : State).inputs =
      [.access (.write 4 0x0C 0xFFFFFFFF), .access (.read 4 0x0C)] := rfl
theorem witness_TxbufReadsBack :
    ({ idle [] [] with
        inputs := [.access (.write 4 (0x40 + 4 * (15 : Fin 16).val : Nat) 0x12345678),
          .access (.read 4 (0x40 + 4 * (15 : Fin 16).val : Nat))] } : State).inputs =
      [.access (.write 4 (0x40 + 4 * (15 : Fin 16).val : Nat) 0x12345678),
        .access (.read 4 (0x40 + 4 * (15 : Fin 16).val : Nat))] := rfl
theorem witness_StatusReadSeesCommandResult :
    ∃ t, step { idle (yes 2) [] with
        inputs := [cmdWrite 0x30000000, .access (.read 4 0x04)] } = .next t :=
  ⟨_, eq_next closed _ (by decide)⟩
theorem witness_CommandSeesConfigWrite :
    ({ idle [] [] with inputs := [.access (.write 4 0x0C 1), cmdWrite 0x600000C1] } : State).inputs =
        [.access (.write 4 0x0C 1), cmdWrite 0x600000C1] ∧
      decode 0x600000C1 = .command (.writeCmd 0xC1) := ⟨rfl, by decide⟩
theorem witness_MicroClaimEffect :
    ((idle [] []).line .clk).claimed = true ∧ ((fresh [] [] []).line .clk).claimed = false := by decide
theorem witness_MicroDirEffect :
    ((fresh [] [] []).line .dio).claimed = false ∧ ((aborted []).line .dio).claimed = true := by decide
theorem witness_MicroDrvEffect :
    ¬ (((aborted []).line .clk).claimed = true ∧ ((aborted []).line .clk).dir = some .output) ∧
      ((idle [] []).line .clk).claimed = true ∧ ((idle [] []).line .clk).dir = some .output := by
  decide

/-- DIO handed over to the target. -/
def handedOver : State := { inFrame [true] [.low] with dio := ⟨true, some .input, some .low⟩ }

theorem witness_MicroSmpEffect :
    ¬ (((idle [] []).line .dio).claimed = true ∧ ((idle [] []).line .dio).dir = some .input) ∧
      (handedOver.line .dio).claimed = true ∧ (handedOver.line .dio).dir = some .input := by decide
theorem witness_MicroRelEffect :
    ((fresh [] [] []).line .clk).claimed = false ∧ ((aborted []).line .clk).claimed = true := by decide
theorem witness_StatementsWriteCommandWords : 256 ≤ 256 := Nat.le_refl _
theorem witness_WrregbufLoadsPayloadThenSends :
    (List.replicate 16 (0x55 : Byte)).length ≤ 16 ∧ ([] : List Byte).length ≤ 16 := by decide

end Sys2Proof.Tests
end

section
/-! PROOFS. The register window: which accesses a step refuses (20_memory.md R50, R51). -/

namespace Sys2Proof.Machine

/-! ### Refused accesses -/

/-- A supported access is an aligned 32-bit access inside the window (R51). -/
theorem accessRefusal_eq_none_iff (width : Nat) (offset : Int) :
    accessRefusal width offset = none ↔
      width = 4 ∧ 0 ≤ offset ∧ offset ≤ 0x7C ∧ offset % 4 = 0 := by
  have hsize : (windowSize : Int) = 0x80 := rfl
  unfold accessRefusal
  split_ifs with hwidth houtside hmisaligned
  · exact iff_of_false (by simp) (by omega)
  · exact iff_of_false (by simp) (by omega)
  · exact iff_of_false (by simp) (by omega)
  · exact iff_of_true rfl (by omega)

/-- Serving an access refuses it exactly for the reason its width and offset give (R51, R157). -/
theorem serveAccess_refused_iff (a : Access) (s : State) (r : Refusal) :
    serveAccess a s = .refused r ↔ accessRefusal a.width a.offset = some r := by
  cases a with
  | read width offset =>
    cases h : accessRefusal width offset <;> simp [serveAccess, Access.width, Access.offset, h]
  | write width offset v =>
    cases h : accessRefusal width offset with
    | some r' => simp [serveAccess, Access.width, Access.offset, h]
    | none =>
      simp only [serveAccess, Access.width, Access.offset, h]
      split <;> simp

/-! ### A command is never refused -/

theorem perform_ne_refused (sc : Script) (s : State) (r : Refusal) : perform sc s ≠ .refused r := by
  unfold perform
  split <;> simp

theorem performOpen_ne_refused (s : State) (r : Refusal) : performOpen s ≠ .refused r := by
  unfold performOpen
  split <;> simp

theorem ifAdmitted_ne_refused (i : Instr) {s : State} {r : Refusal}
    {run : State → Host.Outcome State Fault Refusal} (hrun : run s ≠ .refused r) :
    ifAdmitted i s run ≠ .refused r := by
  rcases ifAdmitted_ends i s run with ⟨-, h⟩ | ⟨-, h⟩
  · rwa [h]
  · simp [h]

/-- Every command has a meaning in every state: what is not admitted is rejected with a code (R144). -/
theorem exec_ne_refused (i : Instr) (s : State) (r : Refusal) : exec i s ≠ .refused r := by
  cases i with
  | openLink => exact ifAdmitted_ne_refused _ (performOpen_ne_refused s r)
  | closeLink =>
    rw [exec, execClose]
    refine ifAdmitted_ne_refused _ ?_
    split
    · exact perform_ne_refused _ s r
    · simp
    · simp
  | start | writeByte | stop | writeCmd | writeRegBuf | setBrightness =>
    exact ifAdmitted_ne_refused _ (perform_ne_refused _ s r)

/-- A step is refused only for the access it takes up (R157). -/
theorem step_refused_iff (s : State) (r : Refusal) :
    step s = .refused r ↔ nextRequest s = .refused r := by
  unfold step
  cases nextRequest s with
  | command w s' => cases h : decode w <;> simp [h, exec_ne_refused]
  | _ => simp

/-- A step with an access pending is refused exactly when the access is not supported (R51). -/
theorem step_access_refused_iff {s : State} {a : Access} {rest : List HostInput}
    (h : s.inputs = .access a :: rest) (r : Refusal) :
    step s = .refused r ↔ accessRefusal a.width a.offset = some r := by
  have hreq : nextRequest s = serveAccess a s.dropInput := by simp [nextRequest, h]
  rw [step_refused_iff, hreq, serveAccess_refused_iff]

/-! ### Host addresses -/

/-- The host address of an offset is read at that offset (R50). -/
@[simp] theorem memRead_bbmBase_add (p : Params) (offset : Nat) :
    memRead p (p.bbmBase + offset) = .read 4 offset := by
  simp [memRead]

/-- The host address of an offset is written at that offset (R50). -/
@[simp] theorem memWrite_bbmBase_add (p : Params) (offset : Nat) (v : Word) :
    memWrite p (p.bbmBase + offset) v = .write 4 offset v := by
  simp [memWrite]

/-- Settles O46: an access is refused for what `accessRefusal` finds, since no command is refused, and
`accessRefusal` finds nothing exactly on the supported accesses. -/
theorem onlyAlignedWordAccessesAreServed : Obligations.OnlyAlignedWordAccessesAreServed := by
  refine ⟨fun s a rest h => ?_, fun p offset v =>
    ⟨memRead_bbmBase_add p offset, memWrite_bbmBase_add p offset v⟩⟩
  calc (∃ r, step s = .refused r)
    _ ↔ ∃ r, accessRefusal a.width a.offset = some r :=
      exists_congr fun r => step_access_refused_iff h r
    _ ↔ ¬ accessRefusal a.width a.offset = none := Option.ne_none_iff_exists'.symm
    _ ↔ _ := not_congr (accessRefusal_eq_none_iff a.width a.offset)

end Sys2Proof.Machine
end

section
/-! PROOFS. Command words and their fields: what an illegal word does (30_encoding.md R65, R68, R69). -/

namespace Sys2Proof

/-! ### The fields of a word -/

/-- Where a mask covers a whole field, the field of a word that matches under the mask is the match's. -/
theorem extractLsb'_of_and_eq {w mask m : Word} (h : w &&& mask = m) (start len : Nat)
    (hmask : mask.extractLsb' start len = BitVec.allOnes len) :
    w.extractLsb' start len = m.extractLsb' start len := by
  rw [← h, BitVec.extractLsb'_and, hmask, BitVec.and_allOnes]

/-- A word that matches a row of the table of R68 is legal field by field (R65): the row's mask covers OP,
both reserved fields, and LEN and ARG wherever the row has no such operand. -/
theorem Op.legal_of_match {op : Op} {w : Word} (h : w &&& op.mask = op.matchWord) :
    Word.legal w = true := by
  have hop : w.extractLsb' 28 4 = op.matchWord.extractLsb' 28 4 :=
    extractLsb'_of_and_eq h 28 4 (by cases op <;> rfl)
  have hrsva : w.extractLsb' 24 4 = op.matchWord.extractLsb' 24 4 :=
    extractLsb'_of_and_eq h 24 4 (by cases op <;> rfl)
  have hrsvb : w.extractLsb' 8 8 = op.matchWord.extractLsb' 8 8 :=
    extractLsb'_of_and_eq h 8 8 (by cases op <;> rfl)
  have hlen := extractLsb'_of_and_eq h 16 8
  have harg := extractLsb'_of_and_eq h 0 8
  rw [Word.legal, Word.opDefined, Word.rsvaZero, Word.rsvbZero, Word.lenZeroIfUnused,
    Word.argZeroIfUnused, hop, hrsva, hrsvb]
  cases op with
  | openLink | closeLink | start | stop => rw [hlen rfl, harg rfl]; rfl
  | writeByte | writeCmd | setBrightness => rw [hlen rfl]; rfl
  | writeRegBuf => rfl

/-- The decoder takes no word for a command that is not legal field by field (R68, R69). -/
theorem legal_of_decode_command {w : Word} {i : Instr} (h : decode w = .command i) :
    Word.legal w = true := by
  unfold decode at h
  split at h
  · cases h
  · split at h
    · exact Op.legal_of_match ‹_›
    · cases h

namespace Machine

/-! ### A CMD write -/

/-- A CMD write is taken up as its word, and taken from the pending inputs (R30). -/
theorem nextRequest_cmdWrite {s : State} {w : Word} {rest : List HostInput}
    (h : s.inputs = cmdWrite w :: rest) :
    nextRequest s = .command w { s with inputs := rest } := by
  have hdrop : s.dropInput = { s with inputs := rest } := by simp [State.dropInput, h]
  simp [nextRequest, h, cmdWrite, hdrop, serveAccess, accessRefusal, windowSize, regAt]

/-- A CMD write of a word that decodes to no command is rejected with ILLEGAL_COMMAND (R69, R144). -/
theorem step_cmdWrite_of_illegal {s : State} {w : Word} {rest : List HostInput} {why : Illegal}
    (h : s.inputs = cmdWrite w :: rest) (hw : decode w = .illegal why) :
    step s = .next ({ s with inputs := rest }.rejected .illegalCommand) := by
  rw [step, nextRequest_cmdWrite h]
  simp only [hw, endIllegal, finish_nil]

/-- Settles O6: a word that is not legal field by field decodes to no command, so a CMD write of it is
rejected. -/
theorem illegalWordChangesResultOnly : Obligations.IllegalWordChangesResultOnly := by
  refine ⟨fun s rest w h hlegal => ?_, by decide⟩
  cases hw : decode w with
  | command i => simp [legal_of_decode_command hw] at hlegal
  | illegal why => exact step_cmdWrite_of_illegal h hw

end Machine

end Sys2Proof
end

section
/-! PROOFS. The micro-operations (40_lines.md R81 to R87): what each does to its line, what it draws and
emits, and which of them the commands use. -/

namespace Sys2Proof.Machine

/-! ### The wire -/

/-- A line that is IN shows what another party drives, else HIGH (R81). -/
theorem wire_of_input {f : LineState} (hdir : f.dir = some .input) (other : Option Level) :
    wire f other = some (other.getD .high) := by
  simp [wire, hdir]

/-- A claimed line that is OUT shows its latch (R81). -/
theorem wire_of_output {f : LineState} (hclaimed : f.claimed = true) (hdir : f.dir = some .output)
    (other : Option Level) : wire f other = f.lat := by
  simp [wire, hclaimed, hdir]

/-! ### Each micro-operation, by its precondition -/

/-- CLAIM has no meaning on a claimed line (R82, R94). -/
theorem runMicro_claim_of_claimed {s : State} {l : Line} (h : (s.line l).claimed = true) :
    runMicro (.claim l) s = .bad := by
  simp [runMicro, microClaim, h]

/-- CLAIM on an unclaimed line (R82). -/
theorem runMicro_claim_of_unclaimed {s : State} {l : Line} (h : (s.line l).claimed = false) :
    runMicro (.claim l) s =
      if s.claimAnswer 0 then
        .ok (({ s with draws := s.draws.used 1 0 0 }.setLine l ⟨true, some .input, some .high⟩).emit
          (.claim l true)) none
      else .fail ({ s with draws := s.draws.used 1 0 0 }.emit (.claim l false)) := by
  simp [runMicro, microClaim, h, drawClaimOk_eq]

/-- DIR has no meaning on an unclaimed line (R83, R94). -/
theorem runMicro_dir_of_unclaimed {s : State} {l : Line} (d : Dir)
    (h : (s.line l).claimed = false) : runMicro (.dir l d) s = .bad := by
  simp [runMicro, microDir, h]

/-- DIR on a claimed line (R83). -/
theorem runMicro_dir_of_claimed {s : State} {l : Line} (d : Dir) (h : (s.line l).claimed = true) :
    runMicro (.dir l d) s =
      if s.opAnswer 0 then
        .ok (({ s with draws := s.draws.used 0 1 0 }.setLine l { s.line l with dir := some d }).emit
          (.dir l d true)) none
      else .fail ({ s with draws := s.draws.used 0 1 0 }.emit (.dir l d false)) := by
  simp [runMicro, microDir, h, drawOpOk_eq]

/-- DRV has no meaning on a line that is not a claimed output (R84, R94). -/
theorem runMicro_drv_of_not_output {s : State} {l : Line} (v : Level)
    (h : ¬ ((s.line l).claimed = true ∧ (s.line l).dir = some .output)) :
    runMicro (.drv l v) s = .bad := by
  rw [runMicro, microDrv, if_neg h]

/-- DRV on a claimed output (R84). -/
theorem runMicro_drv_of_output {s : State} {l : Line} (v : Level)
    (h : (s.line l).claimed = true ∧ (s.line l).dir = some .output) :
    runMicro (.drv l v) s =
      if s.opAnswer 0 then
        .ok (({ s with draws := s.draws.used 0 1 0 }.setLine l { s.line l with lat := some v }).emit
          (.drv l v true)) none
      else .fail ({ s with draws := s.draws.used 0 1 0 }.emit (.drv l v false)) := by
  rw [runMicro, microDrv, if_pos h, drawOpOk_eq]

/-- SMP has no meaning on a line that is not a claimed input (R85, R94). -/
theorem runMicro_smp_of_not_input {s : State} {l : Line}
    (h : ¬ ((s.line l).claimed = true ∧ (s.line l).dir = some .input)) :
    runMicro (.smp l) s = .bad := by
  rw [runMicro, microSmp, if_neg h]

/-- A sample takes the next level, which taking its `op_ok` answer has left the same (R39). -/
theorem drawDioLevel_after_opOk (s : State) :
    drawDioLevel { s with draws := s.draws.used 0 1 0 } =
      (s.levelAnswer 0, { s with draws := s.draws.used 0 1 1 }) := by
  simp [drawDioLevel_eq, State.levelAnswer, Draws.used]

/-- SMP on a claimed input: the level is drawn only when the operation succeeds (R85). -/
theorem runMicro_smp_of_input {s : State} {l : Line}
    (h : (s.line l).claimed = true ∧ (s.line l).dir = some .input) :
    runMicro (.smp l) s =
      if s.opAnswer 0 then
        .ok ({ s with draws := s.draws.used 0 1 1 }.emit (.smp l (some (s.levelAnswer 0))))
          (some (s.levelAnswer 0))
      else .fail ({ s with draws := s.draws.used 0 1 0 }.emit (.smp l none)) := by
  simp only [runMicro, microSmp, if_pos h, drawOpOk_eq, drawDioLevel_after_opOk]

/-- REL has no meaning on an unclaimed line (R87, R94). -/
theorem runMicro_rel_of_unclaimed {s : State} {l : Line} (h : (s.line l).claimed = false) :
    runMicro (.rel l) s = .bad := by
  simp [runMicro, microRel, h]

/-- REL on a claimed line takes no answer, so it does not fail (R87). -/
theorem runMicro_rel_of_claimed {s : State} {l : Line} (h : (s.line l).claimed = true) :
    runMicro (.rel l) s = .ok ((s.setLine l .released).emit (.rel l)) none := by
  rw [runMicro, microRel, if_pos h]

/-- Settles O54. -/
theorem microClaimEffect : Obligations.MicroClaimEffect :=
  fun _ _ => ⟨runMicro_claim_of_claimed, runMicro_claim_of_unclaimed⟩

/-- Settles O55: the wire after DIR is that of a claimed line in the new direction with the old latch. -/
theorem microDirEffect : Obligations.MicroDirEffect := by
  refine fun s l d => ⟨runMicro_dir_of_unclaimed d, fun hclaimed =>
    ⟨runMicro_dir_of_claimed d hclaimed, ?_, ?_⟩⟩
  · rintro rfl
    exact wire_of_output (f := { s.line l with dir := some .output }) hclaimed rfl none
  · rintro rfl other
    exact wire_of_input rfl other

/-- Settles O56: the wire after DRV is that of a claimed output with the new latch. -/
theorem microDrvEffect : Obligations.MicroDrvEffect :=
  fun s l v => ⟨runMicro_drv_of_not_output v, fun hclaimed hdir =>
    ⟨runMicro_drv_of_output v ⟨hclaimed, hdir⟩,
      wire_of_output (f := { s.line l with lat := some v }) hclaimed hdir none⟩⟩

/-- Settles O58: a released line is IN, so the BBM does not drive it. -/
theorem microRelEffect : Obligations.MicroRelEffect :=
  fun _ _ => ⟨runMicro_rel_of_unclaimed, fun hclaimed =>
    ⟨runMicro_rel_of_claimed hclaimed, wire_of_input rfl⟩⟩

/-! ### The micro-operations that commands use -/

/-- The micro-operations found in the scripts of the commands (R92, R93, R106, R109, R112, R113): once CLK
is claimed it is never turned IN and never sampled. -/
def Micro.inCommands : Micro → Bool
  | .dir .clk .input => false
  | .smp .clk => false
  | _ => true

/-- The script holds only micro-operations that commands use. -/
abbrev Script.InCommands (sc : Script) : Prop := ∀ m ∈ scriptMicros sc, m.inCommands = true

theorem Script.InCommands.append {a b : Script} (ha : Script.InCommands a)
    (hb : Script.InCommands b) : Script.InCommands (a ++ b) := by
  intro m hm
  rw [scriptMicros_append, List.mem_append] at hm
  exact hm.elim (ha m) (hb m)

theorem Script.InCommands.flatMap {α : Type} {f : α → Script} (h : ∀ a, Script.InCommands (f a))
    (as : List α) : Script.InCommands (as.flatMap f) := by
  induction as with
  | nil => exact fun m hm => absurd hm List.not_mem_nil
  | cons a as ih => exact (h a).append ih

theorem startScript_inCommands : Script.InCommands startScript := by
  decide

theorem stopScript_inCommands : Script.InCommands stopScript := by
  decide

theorem recoverScript_inCommands : Script.InCommands recoverScript := by
  decide

theorem closeScript_inCommands : Script.InCommands closeScript := by
  decide

theorem ackScript_inCommands : Script.InCommands ackScript := by
  decide

theorem bitScript_inCommands (i : Fin 8) (v : Level) : Script.InCommands (bitScript i v) := by
  simp [Script.InCommands, scriptMicros, bitScript, inPhase, Micro.inCommands]

theorem sendByteScript_inCommands (order : BitOrder) (b : Byte) :
    Script.InCommands (sendByteScript order b) :=
  (Script.InCommands.flatMap (fun i => bitScript_inCommands i _) bitSlots).append
    ackScript_inCommands

theorem frameScript_inCommands (order : BitOrder) (bs : List Byte) :
    Script.InCommands (frameScript order bs) :=
  (startScript_inCommands.append (.flatMap (sendByteScript_inCommands order) bs)).append
    stopScript_inCommands

theorem stopScriptIn_inCommands (x : Xst) : Script.InCommands (stopScriptIn x) := by
  cases x with
  | aborted => exact recoverScript_inCommands
  | idle | inframe => exact stopScript_inCommands

theorem openStages_inCommands :
    ∀ stage ∈ openStages, Script.InCommands stage.1 ∧ Script.InCommands stage.2 := by
  decide

/-! ### The events of a command -/

/-- An event a command can emit: RST, or the event of one of its micro-operations, succeeded or failed. -/
def LineEvent.OfCommand (e : LineEvent) : Prop :=
  e = .rst ∨ ∃ m : Micro, m.inCommands = true ∧ ((∃ v, e = okEvent v m) ∨ failEvent m = some e)

/-- A command emits no sample of CLK, succeeded or failed. -/
theorem LineEvent.OfCommand.ne_smp_clk {e : LineEvent} (h : e.OfCommand) (v : Option Level) :
    e ≠ .smp .clk v := by
  rintro rfl
  obtain h | ⟨m, hm, ⟨w, h⟩ | h⟩ := h
  · cases h
  · cases m <;> cases h
    cases hm
  · cases m <;> cases h
    cases hm

/-- From `s` to `t` the trace grows by events a command can emit. -/
def CommandTrace (s t : State) : Prop :=
  ∃ evs, t.trace = s.trace ++ evs ∧ ∀ e ∈ evs, e.OfCommand

theorem CommandTrace.of_trace_eq {s t : State} (h : t.trace = s.trace) : CommandTrace s t :=
  ⟨[], by simp [h], by simp⟩

/-- Only the traces of the two states matter. -/
theorem CommandTrace.congr {s s' t t' : State} (h : CommandTrace s t) (hs : s'.trace = s.trace)
    (ht : t'.trace = t.trace) : CommandTrace s' t' := by
  unfold CommandTrace
  rwa [hs, ht]

theorem CommandTrace.trans {s t u : State} (h : CommandTrace s t) (k : CommandTrace t u) :
    CommandTrace s u := by
  obtain ⟨a, hta, ha⟩ := h
  obtain ⟨b, hub, hb⟩ := k
  exact ⟨a ++ b, by rw [hub, hta, List.append_assoc], List.forall_mem_append.mpr ⟨ha, hb⟩⟩

/-- One more event in the trace. -/
theorem CommandTrace.snoc {s t u : State} {e : LineEvent} (h : CommandTrace s t)
    (he : e.OfCommand) (htrace : u.trace = t.trace ++ [e]) : CommandTrace s u :=
  h.trans ⟨[e], htrace, by simpa using he⟩

theorem OkEvents.ofCommand {ms : List Micro} {evs : List LineEvent} (h : OkEvents ms evs)
    (hms : ∀ m ∈ ms, m.inCommands = true) : ∀ e ∈ evs, e.OfCommand := by
  induction h with
  | nil => simp
  | cons hok _ ih =>
    rw [List.forall_mem_cons] at hms ⊢
    exact ⟨.inr ⟨_, hms.1, .inl hok⟩, ih hms.2⟩

/-- The state a script ends in, if it ends with a meaning. -/
def ScriptEnd.state? : ScriptEnd → Option State
  | .done s _ => some s
  | .failed s _ => some s
  | .cut s => some s
  | .bad => none

/-- However a script ends, its events are those of its micro-operations, and RST if it is cut. -/
theorem runScript_commandTrace {sc : Script} (hsc : Script.InCommands sc) {s t : State}
    {acks : List Bool} {r : ScriptEnd} (hrun : runScript sc s acks = r) (ht : r.state? = some t) :
    CommandTrace s t := by
  obtain ⟨u, evs, hend, hframe, hok⟩ | ⟨u, evs, e, hend, hframe, -, ms, m, rest, hms, hok, hfail⟩ |
    ⟨u, evs, hend, hframe, -, ms, rest, hms, hok⟩ | hend := hrun ▸ runScript_ends sc s acks <;>
    subst hend <;> cases ht
  · exact ⟨evs, hframe.trace, hok.ofCommand hsc⟩
  · have hall : ∀ m' ∈ ms ++ m :: rest, m'.inCommands = true := hms ▸ hsc
    have hevs := hok.ofCommand fun m' hm' => hall m' (by simp [hm'])
    have he : e.OfCommand := .inr ⟨m, hall m (by simp), .inr hfail⟩
    exact ⟨evs ++ [e], hframe.trace, List.forall_mem_append.mpr ⟨hevs, by simpa using he⟩⟩
  · have hall : ∀ m' ∈ ms ++ rest, m'.inCommands = true := hms ▸ hsc
    have hu : CommandTrace s u :=
      ⟨evs, hframe.trace, hok.ofCommand fun m' hm' => hall m' (by simp [hm'])⟩
    exact hu.snoc (.inl rfl) rfl

/-- However the stages of OPEN end, their events are those of their scripts and releases (R92). -/
theorem runStages_commandTrace {stages : List (Script × Script)}
    (hstages : ∀ stage ∈ stages, Script.InCommands stage.1 ∧ Script.InCommands stage.2)
    {s t : State} {r : ScriptEnd} (hrun : runStages stages s = r) (ht : r.state? = some t) :
    CommandTrace s t := by
  induction stages generalizing s with
  | nil =>
    subst hrun
    cases ht
    exact .of_trace_eq rfl
  | cons stage rest ih =>
    obtain ⟨script, releases⟩ := stage
    obtain ⟨⟨hscript, hreleases⟩, hrest⟩ := List.forall_mem_cons.mp hstages
    rw [runStages] at hrun
    cases hfirst : runScript script s [] with
    | done s' acks =>
      simp only [hfirst] at hrun
      exact (runScript_commandTrace hscript hfirst rfl).trans (ih hrest hrun)
    | failed s' acks =>
      simp only [hfirst] at hrun
      refine (runScript_commandTrace hscript hfirst rfl).trans
        (runScript_commandTrace hreleases (acks := []) rfl ?_)
      rw [← ht, ← hrun]
      cases runScript releases s' [] <;> rfl
    | cut s' =>
      simp only [hfirst] at hrun
      exact runScript_commandTrace hscript (hfirst.trans hrun) ht
    | bad =>
      simp only [hfirst] at hrun
      exact runScript_commandTrace hscript (hfirst.trans hrun) ht

theorem perform_commandTrace {sc : Script} (hsc : Script.InCommands sc) {s t : State}
    (h : perform sc s = .next t) : CommandTrace s t := by
  obtain ⟨s', acks, hrun, rfl⟩ | ⟨s', acks, hrun, rfl⟩ | hrun := perform_ends h
  · exact (runScript_commandTrace hsc hrun rfl).congr rfl rfl
  · exact (runScript_commandTrace hsc hrun rfl).congr rfl rfl
  · exact (runScript_commandTrace hsc hrun rfl).congr rfl rfl

theorem performOpen_commandTrace {s t : State} (h : performOpen s = .next t) :
    CommandTrace s t := by
  obtain ⟨s', acks, hrun, rfl⟩ | ⟨s', acks, hrun, rfl⟩ | hrun := performOpen_ends h
  · exact (runStages_commandTrace openStages_inCommands hrun rfl).congr rfl rfl
  · exact (runStages_commandTrace openStages_inCommands hrun rfl).congr rfl rfl
  · exact (runStages_commandTrace openStages_inCommands hrun rfl).congr rfl rfl

/-- A rejected command emits nothing, so only what an admitted one runs matters (R144). -/
theorem ifAdmitted_commandTrace {i : Instr} {s t : State}
    {run : State → Host.Outcome State Fault Refusal} (hrun : run s = .next t → CommandTrace s t)
    (h : ifAdmitted i s run = .next t) : CommandTrace s t := by
  obtain ⟨-, hend⟩ | ⟨-, hend⟩ := ifAdmitted_ends i s run
  · exact hrun (hend ▸ h)
  · cases hend.symm.trans h
    exact .of_trace_eq rfl

/-- Every command emits only RST and the events of the micro-operations commands use. -/
theorem exec_commandTrace {i : Instr} {s t : State} (h : exec i s = .next t) :
    CommandTrace s t := by
  cases i with
  | openLink => exact ifAdmitted_commandTrace performOpen_commandTrace h
  | closeLink =>
    rw [exec, execClose] at h
    refine ifAdmitted_commandTrace (fun hrun => ?_) h
    cases hlink : s.link with
    | opened => exact perform_commandTrace closeScript_inCommands (by simpa [hlink] using hrun)
    | unopened | closed =>
      obtain rfl : finish .ok [] s = t := by simpa [hlink] using hrun
      exact .of_trace_eq rfl
  | start => exact ifAdmitted_commandTrace (perform_commandTrace startScript_inCommands) h
  | writeByte b =>
    exact ifAdmitted_commandTrace (perform_commandTrace (sendByteScript_inCommands _ b)) h
  | stop => exact ifAdmitted_commandTrace (perform_commandTrace (stopScriptIn_inCommands _)) h
  | writeCmd | writeRegBuf | setBrightness =>
    exact ifAdmitted_commandTrace (perform_commandTrace (frameScript_inCommands _ _)) h

/-- Settles O57: SMP by its precondition, and no command has a sample of CLK in its script. -/
theorem microSmpEffect : Obligations.MicroSmpEffect := by
  refine ⟨fun s l => ⟨runMicro_smp_of_not_input, fun hclaimed hdir =>
    runMicro_smp_of_input ⟨hclaimed, hdir⟩⟩, fun i s t h => ?_⟩
  obtain ⟨evs, htrace, hevs⟩ := exec_commandTrace h
  exact ⟨evs, htrace, fun v hv => (hevs _ hv).ne_smp_clk v rfl⟩

end Sys2Proof.Machine
end

section
/-! PROOFS. Admission and rejection: what the table of 60_exceptions.md R142 says of each command, and what
a command word that is not admitted changes (R144). -/

namespace Sys2Proof.Machine

/-! ### The end of a command by its admission -/

theorem ifAdmitted_of_ok {i : Instr} {s : State} (h : admission i s = .ok)
    (run : State → Host.Outcome State Fault Refusal) : ifAdmitted i s run = run s := by
  rw [ifAdmitted, h]

theorem ifAdmitted_of_ne_ok {i : Instr} {s : State} (h : admission i s ≠ .ok)
    (run : State → Host.Outcome State Fault Refusal) :
    ifAdmitted i s run = .next (s.rejected (admission i s)) := by
  obtain ⟨hok, -⟩ | ⟨-, hend⟩ := ifAdmitted_ends i s run
  · exact absurd hok h
  · exact hend

/-- A command that is not admitted changes the result alone (R144). -/
theorem exec_of_not_admitted {i : Instr} {s : State} (h : admission i s ≠ .ok) :
    exec i s = .next (s.rejected (admission i s)) := by
  cases i <;> exact ifAdmitted_of_ne_ok h _

/-- STOP runs the recovery stop exactly when ABORTED (R114). -/
theorem stopScriptIn_eq_ite (x : Xst) :
    stopScriptIn x = if x = .aborted then recoverScript else stopScript := by
  cases x <;> rfl

/-- CLOSE releases the lines only when LINK = OPEN (R93). -/
theorem exec_closeLink_of_opened {s : State} (h : s.link = .opened) :
    exec .closeLink s = perform closeScript s := by
  rw [exec, execClose, ifAdmitted_of_ok rfl, h]

/-- CLOSE reports OK and has no effect when LINK is not OPEN (R93). -/
theorem exec_closeLink_of_not_opened {s : State} (h : s.link ≠ .opened) :
    exec .closeLink s = .next (s.rejected .ok) := by
  rw [exec, execClose, ifAdmitted_of_ok rfl]
  cases hlink : s.link with
  | opened => exact absurd hlink h
  | unopened | closed => rfl

/-- An admitted command runs its script; CLOSE has one only when LINK = OPEN (R91, R93). -/
theorem exec_of_admitted {i : Instr} {s : State} (h : admission i s = .ok)
    (hclose : i = .closeLink → s.link = .opened) : exec i s = scriptRun i s := by
  cases i with
  | closeLink => exact exec_closeLink_of_opened (hclose rfl)
  | stop => rw [exec, execStop, ifAdmitted_of_ok h, stopScriptIn_eq_ite, scriptRun]
  | openLink | start | writeByte | writeCmd | writeRegBuf | setBrightness =>
    exact ifAdmitted_of_ok h _

/-! ### The table of admission -/

/-- What a cell of the table of R142 says of `admission`: "run" is an admitted command with a script to run,
"OK, no effect" is CLOSE without an open link, and a code is the one `admission` answers. -/
theorem admissionCell_cases (i : Instr) (s : State) :
    (admissionCell s.params i (columnOf s) = .run ∧ admission i s = .ok ∧
      (i = .closeLink → s.link = .opened)) ∨
    (admissionCell s.params i (columnOf s) = .noEffect ∧ i = .closeLink ∧ s.link ≠ .opened) ∨
    (admissionCell s.params i (columnOf s) = .reject (admission i s) ∧ admission i s ≠ .ok) := by
  cases hlink : s.link with
  | unopened | closed =>
    cases i <;> simp [columnOf, admissionCell, admission, admission.inLink, hlink]
  | opened =>
    cases hxst : s.xst with
    | inframe | aborted =>
      cases i <;> simp [columnOf, admissionCell, admission, admission.inLink, hlink, hxst]
    | idle =>
      cases i with
      | writeRegBuf r n =>
        by_cases hn : n.toNat ≤ s.params.maxPayload.val <;>
          simp [columnOf, admissionCell, admission, admission.inLink, hlink, hxst, hn]
      | setBrightness l =>
        by_cases hl : l.toNat ≤ s.params.brightnessMax.toNat <;>
          simp [columnOf, admissionCell, admission, admission.inLink, hlink, hxst, hl, BitVec.lt_def]
      | openLink | closeLink | start | writeByte | stop | writeCmd =>
        simp [columnOf, admissionCell, admission, admission.inLink, hlink, hxst]

/-- Settles O18: by what the command's cell says of `admission`, and an illegal word is rejected whatever
the column. -/
theorem admissionFollowsTable : Obligations.AdmissionFollowsTable := by
  refine ⟨fun i s => ?_, fun s w why rest hw hin => step_cmdWrite_of_illegal hin hw⟩
  obtain ⟨hcell, hok, hclose⟩ | ⟨hcell, rfl, hlink⟩ | ⟨hcell, hcode⟩ := admissionCell_cases i s
  · rw [hcell]
    exact exec_of_admitted hok hclose
  · rw [hcell]
    exact exec_closeLink_of_not_opened hlink
  · rw [hcell]
    exact exec_of_not_admitted hcode

/-! ### A rejected command word -/

/-- A CMD write of a legal word runs its command, the input taken (R30, R91). -/
theorem step_cmdWrite_of_command {s : State} {w : Word} {rest : List HostInput} {i : Instr}
    (h : s.inputs = cmdWrite w :: rest) (hw : decode w = .command i) :
    step s = exec i { s with inputs := rest } := by
  rw [step, nextRequest_cmdWrite h]
  simp only [hw]

/-- Settles O19: `Admit` rejects a word either as illegal or by the admission of its command, and both only
finish with the code. -/
theorem rejectionChangesResultOnly : Obligations.RejectionChangesResultOnly := by
  intro s rest w h hcode
  cases hw : decode w with
  | illegal why =>
    simp only [admitWord, hw]
    exact step_cmdWrite_of_illegal h hw
  | command i =>
    simp only [admitWord, hw] at hcode ⊢
    exact (step_cmdWrite_of_command h hw).trans (exec_of_not_admitted hcode)

end Sys2Proof.Machine
end

section
/-! PROOFS. Encoding and decoding of command words (30_encoding.md R65 to R70). -/

namespace Sys2Proof

/-! ### A command decodes from its own word -/

/-- A word whose OP names a row of R68 and which agrees with the row under its mask decodes to the row's
command. -/
theorem decode_of_match {w : Word} {op : Op} (hop : opOf w = some op)
    (hmatch : w &&& op.mask = op.matchWord) :
    decode w = .command (op.withOperands (argOf w) (lenOf w)) := by
  rw [decode, hop]
  exact if_pos hmatch

/-- A byte put below a word without an ARG is the ARG of the result. -/
theorem argOf_or {m : Word} (hm : argOf m = 0) (b : Byte) : argOf (m ||| b.zeroExtend 32) = b := by
  have hb : argOf (b.zeroExtend 32) = b := by
    ext k hk
    simp [argOf, show k < 32 by omega, hk]
  have hor : argOf (m ||| b.zeroExtend 32) = argOf m ||| argOf (b.zeroExtend 32) :=
    BitVec.extractLsb'_or
  rw [hor, hm, hb]
  exact BitVec.zero_or

/-- A byte in ARG leaves LEN alone. -/
theorem lenOf_or (m : Word) (b : Byte) : lenOf (m ||| b.zeroExtend 32) = lenOf m := by
  ext k hk
  simp [lenOf, BitVec.getLsbD_of_ge b (16 + k) (by omega)]

/-- The operands of a command's word are the command's. -/
theorem withOperands_encode (i : Instr) :
    (Laws.RowMatch.rowOf i).withOperands (argOf (encode i)) (lenOf (encode i)) = i := by
  cases i with
  | openLink | closeLink | start | stop => rfl
  | writeByte b | writeCmd b | setBrightness b => exact congrArg _ (argOf_or (by decide) b)
  | writeRegBuf r n =>
    have hmid : ∀ n : Byte, argOf (0x70000000 ||| n.zeroExtend 32 <<< 16) = 0 ∧
        lenOf (0x70000000 ||| n.zeroExtend 32 <<< 16) = n := by decide
    exact congrArg₂ _ (argOf_or (hmid n).1 r) ((lenOf_or _ r).trans (hmid n).2)

/-- The word of a command names the command's row in OP and agrees with it under its mask. -/
theorem rowMatch (i : Instr) : Laws.RowMatch.Statement i := by
  cases i with
  | openLink => exact Laws.RowMatch.openLink
  | closeLink => exact Laws.RowMatch.closeLink
  | start => exact Laws.RowMatch.start
  | writeByte b => exact Laws.RowMatch.writeByte b
  | stop => exact Laws.RowMatch.stop
  | writeCmd c => exact Laws.RowMatch.writeCmd c
  | writeRegBuf r n => exact Laws.RowMatch.writeRegBuf r n
  | setBrightness l => exact Laws.RowMatch.setBrightness l

/-- Every command decodes from its own word. -/
theorem decode_encode (i : Instr) : decode (encode i) = .command i := by
  obtain ⟨-, hop, hmatch⟩ := rowMatch i
  rw [decode_of_match hop hmatch, withOperands_encode]

/-- Settles O1: the word of a command matches its row of the table and holds its operands. -/
theorem decodeOfEncode : Obligations.DecodeOfEncode :=
  fun i _ => decode_encode i

/-! ### A word that decodes is its command's word -/

/-- A field of a word put back in its place is the word under the field's mask. -/
theorem zeroExtend_extractLsb'_shiftLeft (w mask : Word) (start len : Nat)
    (hmask : ∀ k : Fin 32, mask.getLsbD k = decide (start ≤ k.val ∧ k.val < start + len)) :
    (w.extractLsb' start len).zeroExtend 32 <<< start = w &&& mask := by
  apply BitVec.eq_of_getLsbD_eq
  intro k hk
  rw [BitVec.getLsbD_and, hmask ⟨k, hk⟩]
  by_cases h : start ≤ k
  · have hlen : k - start < len ↔ k < start + len := by omega
    simp [hk, h, Nat.not_lt.mpr h, hlen, Bool.and_comm]
  · simp [h, Nat.lt_of_not_le h]

theorem zeroExtend_argOf (w : Word) : (argOf w).zeroExtend 32 = w &&& 0xFF := by
  rw [← zeroExtend_extractLsb'_shiftLeft w 0xFF 0 8 (by decide)]
  exact (BitVec.shiftLeft_zero _).symm

theorem zeroExtend_lenOf (w : Word) :
    (lenOf w).zeroExtend 32 <<< 16 = w &&& 0x00FF0000 :=
  zeroExtend_extractLsb'_shiftLeft w 0x00FF0000 16 8 (by decide)

/-- The word of a row's command with the operands of `w` has the row's bits under the mask and those of `w`
elsewhere. -/
theorem encode_withOperands (op : Op) (w : Word) :
    encode (op.withOperands (argOf w) (lenOf w)) = op.matchWord ||| (w &&& ~~~op.mask) := by
  cases op with
  | openLink | closeLink | start | stop =>
    have hmask : ~~~(0xFFFFFFFF : Word) = 0#32 := by decide
    simp only [Op.withOperands, Op.matchWord, Op.mask, encode, hmask, BitVec.and_zero]
    rfl
  | writeByte | writeCmd | setBrightness =>
    simp only [Op.withOperands, Op.matchWord, Op.mask, encode, zeroExtend_argOf]
    rfl
  | writeRegBuf =>
    simp only [Op.withOperands, Op.matchWord, Op.mask, encode, zeroExtend_argOf, zeroExtend_lenOf]
    rw [BitVec.or_assoc, ← BitVec.and_or_distrib_left]
    rfl

/-- A word is its bits under a mask and those outside it. -/
theorem and_or_and_not (w mask : Word) : w &&& mask ||| (w &&& ~~~mask) = w := by
  ext k hk
  simp [← Bool.and_or_distrib_left]

/-- A word decodes to a command only through a row it matches, with the operands it holds. -/
theorem exists_match_of_decode {w : Word} {i : Instr} (h : decode w = .command i) :
    ∃ op : Op, w &&& op.mask = op.matchWord ∧ i = op.withOperands (argOf w) (lenOf w) := by
  unfold decode at h
  split at h
  · cases h
  · split at h
    · exact ⟨_, ‹_›, by simpa using h.symm⟩
    · cases h

/-- Settles O2: the row a word matches gives its bits under the mask, and the operands all others. -/
theorem encodeOfDecode : Obligations.EncodeOfDecode := by
  intro w i h
  obtain ⟨op, hmatch, rfl⟩ := exists_match_of_decode h
  rw [encode_withOperands, ← hmatch, and_or_and_not]

/-! ### The legal words are those that match a row -/

/-- A word is its five fields (R65). -/
theorem word_eq_fields (w : Word) :
    w = w.extractLsb' 28 4 ++ (w.extractLsb' 24 4 ++ (w.extractLsb' 16 8 ++
      (w.extractLsb' 8 8 ++ w.extractLsb' 0 8))) := by
  have h8 := BitVec.extractLsb'_append_extractLsb'_eq_extractLsb' (x := w) (len₂ := 8)
    (show 8 = 0 + 8 from rfl)
  have h16 := BitVec.extractLsb'_append_extractLsb'_eq_extractLsb' (x := w) (len₂ := 8)
    (show 16 = 0 + (8 + 8) from rfl)
  have h24 := BitVec.extractLsb'_append_extractLsb'_eq_extractLsb' (x := w) (len₂ := 4)
    (show 24 = 0 + (8 + (8 + 8)) from rfl)
  have h28 := BitVec.extractLsb'_append_extractLsb'_eq_extractLsb' (x := w) (len₂ := 4)
    (show 28 = 0 + (4 + (8 + (8 + 8))) from rfl)
  rw [h8, h16, h24, h28]
  exact BitVec.extractLsb'_eq_self.symm

/-- Fields with the OP of a row, both reserved fields 0, and LEN and ARG 0 where the row has no such operand,
match the row (R65, R68). -/
theorem Op.match_of_fields (op : Op) {l r : Byte} (hl : op ≠ .writeRegBuf → l = 0)
    (hr : op ∈ [Op.openLink, .closeLink, .start, .stop] → r = 0) :
    op.matchWord.extractLsb' 28 4 ++ ((0 : BitVec 4) ++ (l ++ ((0 : BitVec 8) ++ r))) &&& op.mask =
      op.matchWord := by
  cases op with
  | openLink | closeLink | start | stop =>
    obtain rfl := hl (by decide)
    obtain rfl := hr (by decide)
    decide
  | writeByte | writeCmd | setBrightness =>
    obtain rfl := hl (by decide)
    clear hl hr
    revert r
    decide
  | writeRegBuf =>
    have hmask : Op.mask .writeRegBuf = (0xF : BitVec 4) ++ ((0xF : BitVec 4) ++
        ((0 : BitVec 8) ++ ((0xFF : BitVec 8) ++ (0 : BitVec 8)))) := by decide
    have hl0 : l &&& 0 = 0 := BitVec.and_zero
    have hr0 : r &&& 0 = 0 := BitVec.and_zero
    rw [hmask]
    refine (BitVec.and_append.trans (congrArg _ (BitVec.and_append.trans (congrArg _
      (BitVec.and_append.trans (congrArg₂ _ hl0 (BitVec.and_append.trans (congrArg _ hr0)))))))).trans ?_
    decide

/-- The number of an operation in OP (R66). -/
theorem opOf_of_defined {w : Word} (h : w.opDefined = true) :
    ∃ op : Op, opOf w = some op ∧ w.extractLsb' 28 4 = op.matchWord.extractLsb' 28 4 := by
  have hnum : ∀ o : BitVec 4, 1 ≤ o.toNat ∧ o.toNat ≤ 8 →
      o = 1 ∨ o = 2 ∨ o = 3 ∨ o = 4 ∨ o = 5 ∨ o = 6 ∨ o = 7 ∨ o = 8 := by decide
  obtain h | h | h | h | h | h | h | h := hnum _ (of_decide_eq_true h)
  · exact ⟨.openLink, by rw [opOf, h]; rfl, h⟩
  · exact ⟨.closeLink, by rw [opOf, h]; rfl, h⟩
  · exact ⟨.start, by rw [opOf, h]; rfl, h⟩
  · exact ⟨.writeByte, by rw [opOf, h]; rfl, h⟩
  · exact ⟨.stop, by rw [opOf, h]; rfl, h⟩
  · exact ⟨.writeCmd, by rw [opOf, h]; rfl, h⟩
  · exact ⟨.writeRegBuf, by rw [opOf, h]; rfl, h⟩
  · exact ⟨.setBrightness, by rw [opOf, h]; rfl, h⟩

/-- A word that is legal field by field decodes to a command. -/
theorem exists_decode_of_legal {w : Word} (h : Word.legal w = true) : ∃ i, decode w = .command i := by
  simp only [Word.legal, Bool.and_eq_true] at h
  obtain ⟨⟨⟨⟨hdefined, hrsva⟩, hrsvb⟩, hlen⟩, harg⟩ := h
  obtain ⟨op, hop, hnum⟩ := opOf_of_defined hdefined
  have hl : op ≠ .writeRegBuf → w.extractLsb' 16 8 = 0 := by
    intro hne
    rw [Word.lenZeroIfUnused, hnum] at hlen
    cases op with
    | writeRegBuf => exact absurd rfl hne
    | _ => simpa [Op.matchWord] using hlen
  have hr : op ∈ [Op.openLink, .closeLink, .start, .stop] → w.extractLsb' 0 8 = 0 := by
    intro hmem
    rw [Word.argZeroIfUnused, hnum] at harg
    cases op with
    | openLink | closeLink | start | stop => simpa [Op.matchWord] using harg
    | _ => simp at hmem
  refine ⟨_, decode_of_match hop ?_⟩
  rw [Word.rsvaZero, beq_iff_eq] at hrsva
  rw [Word.rsvbZero, beq_iff_eq] at hrsvb
  rw [word_eq_fields w, hnum, hrsva, hrsvb]
  exact op.match_of_fields hl hr

/-- Settles O3: a row's mask covers exactly the fields that must be 0 in it. -/
theorem decodeAcceptsExactlyLegalWords : Obligations.DecodeAcceptsExactlyLegalWords :=
  fun _ => ⟨fun ⟨_, h⟩ => legal_of_decode_command h, exists_decode_of_legal⟩

/-- Settles O4: each word of a command is its `encode`; the two illegal words are evaluated. -/
theorem wordsOfTheTableDecode : Obligations.WordsOfTheTableDecode :=
  ⟨decode_encode .openLink, decode_encode .closeLink, decode_encode .start,
    decode_encode (.writeByte 0xC1), decode_encode .stop, decode_encode (.writeCmd 0xAA),
    decode_encode (.writeRegBuf 0xC0 5), decode_encode (.setBrightness 7), by decide, by decide⟩

end Sys2Proof
end

section
/-! PROOFS. What a script does when every precondition holds (40_lines.md R91, R94): where its
micro-operations lead the lines, what it marks in XST and LINK, and so how an admitted command ends, told by
the environment's answers (R39, R145). -/

namespace Sys2Proof.Machine

/-! ### Preconditions -/

/-- The fields of line `l` among those of both lines. -/
def lineOf (w : Wires) : Line → LineState
  | .clk => w.1
  | .dio => w.2

/-- The precondition of a micro-operation, by the fields of the lines (R82 to R87, R94). -/
def Micro.ready (w : Wires) : Micro → Bool
  | .claim l => !(lineOf w l).claimed
  | .dir l _ => (lineOf w l).claimed
  | .drv l _ => (lineOf w l).claimed && (lineOf w l).dir == some .output
  | .smp l => (lineOf w l).claimed && (lineOf w l).dir == some .input
  | .hold => true
  | .rel l => (lineOf w l).claimed

@[simp] theorem lineOf_state (s : State) (l : Line) : lineOf (s.clk, s.dio) l = s.line l := by
  cases l <;> rfl

/-- A micro-operation whose precondition holds has a meaning (R94). -/
theorem runMicro_ne_bad {m : Micro} {s : State} (h : m.ready (s.clk, s.dio) = true) :
    runMicro m s ≠ .bad := by
  cases m with
  | claim l =>
    rw [runMicro_claim_of_unclaimed (by simpa [Micro.ready] using h)]
    split <;> simp
  | dir l d =>
    rw [runMicro_dir_of_claimed d (by simpa [Micro.ready] using h)]
    split <;> simp
  | drv l v =>
    rw [runMicro_drv_of_output v (by simpa [Micro.ready] using h)]
    split <;> simp
  | smp l =>
    rw [runMicro_smp_of_input (by simpa [Micro.ready] using h)]
    split <;> simp
  | hold => simp [runMicro, microHold]
  | rel l =>
    rw [runMicro_rel_of_claimed (by simpa [Micro.ready] using h)]
    simp

/-- The lines after micro-operations that all succeed; none if one of them has no meaning. -/
def microsLead : Wires → List Micro → Option Wires
  | w, [] => some w
  | w, m :: ms => if m.ready w then microsLead (applyEvent w (okEvent .low m)) ms else none

theorem microsLead_append (w : Wires) (a b : List Micro) :
    microsLead w (a ++ b) = (microsLead w a).bind fun w' => microsLead w' b := by
  induction a generalizing w with
  | nil => rfl
  | cons m a ih =>
    simp only [List.cons_append, microsLead]
    split
    · exact ih _
    · rfl

/-- One script leads on from where another led to. -/
theorem microsLead_script_append {a b : Script} {w w' w'' : Wires}
    (ha : microsLead w (scriptMicros a) = some w') (hb : microsLead w' (scriptMicros b) = some w'') :
    microsLead w (scriptMicros (a ++ b)) = some w'' := by
  rw [scriptMicros_append, microsLead_append, ha]
  exact hb

/-- The level a sample reads has no effect on the lines. -/
theorem applyEvent_okEvent (w : Wires) (v : Level) (m : Micro) :
    applyEvent w (okEvent v m) = applyEvent w (okEvent .low m) := by
  cases m with
  | smp l => cases l <;> rfl
  | _ => rfl

/-- Successful events of micro-operations change the lines as these lead. -/
theorem OkEvents.foldl_applyEvent {ms : List Micro} {evs : List LineEvent} (h : OkEvents ms evs)
    {w w' : Wires} (hlead : microsLead w ms = some w') : evs.foldl applyEvent w = w' := by
  induction h generalizing w with
  | nil => simpa [microsLead] using hlead
  | cons hok _ ih =>
    obtain ⟨v, rfl⟩ := hok
    rw [microsLead] at hlead
    split at hlead
    · rw [List.foldl_cons, applyEvent_okEvent]
      exact ih hlead
    · cases hlead

theorem okEvents_microEvents (ms : List Micro) (levels : Nat → Level) :
    OkEvents ms (microEvents ms levels) := by
  induction ms generalizing levels with
  | nil => exact .nil
  | cons m ms ih => exact .cons ⟨_, rfl⟩ (ih _)

/-! ### One micro-operation of a script -/

section MicroItem

variable {ph : Option Phase} {m : Micro} {rest : Script} {s s' : State} {acks : List Bool}

/-- A reset that is due cuts the script before its next micro-operation (R166). -/
theorem runScript_micro_of_due (hdue : s.resetDue = true) :
    runScript (.micro ph m :: rest) s acks = .cut (takeReset s.dropInput) := by
  rw [runScript, if_pos hdue]

theorem runScript_micro_of_ok {sample : Option Level} (hdue : s.resetDue = false)
    (h : runMicro m (s.enterPhase ph) = .ok s' sample) :
    runScript (.micro ph m :: rest) s acks = runScript rest s'.advance (addSample acks sample) := by
  simp [runScript, hdue, h]

theorem runScript_micro_of_fail (hdue : s.resetDue = false)
    (h : runMicro m (s.enterPhase ph) = .fail s') :
    runScript (.micro ph m :: rest) s acks = .failed s'.advance acks := by
  simp [runScript, hdue, h]

theorem runScript_micro_of_bad (hdue : s.resetDue = false)
    (h : runMicro m (s.enterPhase ph) = .bad) :
    runScript (.micro ph m :: rest) s acks = .bad := by
  simp [runScript, hdue, h]

end MicroItem

/-- A script whose micro-operations lead somewhere meets none without a meaning, whatever the answers and
whether or not a reset arrives (R94). -/
theorem runScript_ne_bad {sc : Script} {s : State} {w : Wires}
    (hlead : microsLead (s.clk, s.dio) (scriptMicros sc) = some w) (acks : List Bool) :
    runScript sc s acks ≠ .bad := by
  induction sc generalizing s acks with
  | nil => simp
  | cons item sc ih =>
    cases item with
    | setXst x => exact ih (s := { s with xst := x }) hlead acks
    | setLink l => exact ih (s := { s with link := l }) hlead acks
    | micro ph m =>
      change microsLead (s.clk, s.dio) (m :: scriptMicros sc) = some w at hlead
      rw [microsLead] at hlead
      split at hlead
      case isFalse => cases hlead
      case isTrue hready =>
        cases hdue : s.resetDue with
        | true => simp [runScript_micro_of_due hdue]
        | false =>
          obtain ⟨v, d, h⟩ | ⟨e, d, -, h⟩ | h := runMicro_ends m (s.enterPhase ph)
          · rw [runScript_micro_of_ok hdue h]
            refine ih ?_ _
            rw [← hlead, ← applyEvent_okEvent _ v]
            rfl
          · simp [runScript_micro_of_fail hdue h]
          · exact absurd h (runMicro_ne_bad hready)

/-! ### What a script marks -/

/-- XST after an item of a script. -/
def Item.xstAfter (x : Xst) : Item → Xst
  | .setXst x' => x'
  | .setLink _ => x
  | .micro _ _ => x

/-- LINK after an item of a script. -/
def Item.linkAfter (l : Link) : Item → Link
  | .setLink l' => l'
  | .setXst _ => l
  | .micro _ _ => l

/-- XST after a script that ends. -/
def Script.xstAfter (sc : Script) (x : Xst) : Xst := sc.foldl Item.xstAfter x

/-- LINK after a script that ends. -/
def Script.linkAfter (sc : Script) (l : Link) : Link := sc.foldl Item.linkAfter l

theorem runScript_done_marks {sc : Script} {s t : State} {acks acks' : List Bool}
    (h : runScript sc s acks = .done t acks') :
    t.xst = Script.xstAfter sc s.xst ∧ t.link = Script.linkAfter sc s.link := by
  induction sc generalizing s acks with
  | nil =>
    cases h
    exact ⟨rfl, rfl⟩
  | cons item sc ih =>
    cases item with
    | setXst x => exact ih (s := { s with xst := x }) h
    | setLink l => exact ih (s := { s with link := l }) h
    | micro ph m =>
      cases hdue : s.resetDue with
      | true => cases (runScript_micro_of_due hdue).symm.trans h
      | false =>
        obtain ⟨v, d, hm⟩ | ⟨e, d, -, hm⟩ | hm := runMicro_ends m (s.enterPhase ph)
        · rw [runScript_micro_of_ok hdue hm] at h
          obtain ⟨hxst, hlink⟩ := ih h
          exact ⟨hxst, hlink⟩
        · cases (runScript_micro_of_fail hdue hm).symm.trans h
        · cases (runScript_micro_of_bad hdue hm).symm.trans h

/-- A micro-operation of the bus traffic: all but CLAIM and REL, which change who owns a line. -/
def Micro.isTraffic : Micro → Bool
  | .claim _ => false
  | .rel _ => false
  | _ => true

/-- An item of a script of bus traffic: it changes neither a claim nor LINK. -/
def Item.isTraffic : Item → Bool
  | .micro _ m => m.isTraffic
  | .setXst _ => true
  | .setLink _ => false

/-- A script of bus traffic. -/
abbrev Script.IsTraffic (sc : Script) : Prop := ∀ item ∈ sc, item.isTraffic = true

theorem Script.IsTraffic.append {a b : Script} (ha : Script.IsTraffic a) (hb : Script.IsTraffic b) :
    Script.IsTraffic (a ++ b) :=
  List.forall_mem_append.mpr ⟨ha, hb⟩

theorem Script.IsTraffic.flatMap {α : Type} {f : α → Script} (h : ∀ a, Script.IsTraffic (f a))
    (as : List α) : Script.IsTraffic (as.flatMap f) := by
  intro item hitem
  obtain ⟨a, -, ha⟩ := List.mem_flatMap.mp hitem
  exact h a item ha

/-- Bus traffic draws no `claim_ok`. -/
theorem Script.IsTraffic.noClaim {sc : Script} (h : Script.IsTraffic sc) :
    ∀ m ∈ scriptMicros sc, m.isClaim = false := by
  intro m hm
  obtain ⟨item, hitem, heq⟩ := List.mem_filterMap.mp hm
  have := h item hitem
  cases item with
  | micro ph m' =>
    cases heq
    cases m <;> simp_all [Item.isTraffic, Micro.isTraffic, Micro.isClaim]
  | setXst | setLink => cases heq

/-- Bus traffic changes neither LINK nor a claim, however it ends without a reset. -/
theorem runScript_traffic {sc : Script} (hsc : Script.IsTraffic sc) {s t : State}
    {acks acks' : List Bool}
    (h : runScript sc s acks = .done t acks' ∨ runScript sc s acks = .failed t acks') :
    t.link = s.link ∧ t.clk.claimed = s.clk.claimed ∧ t.dio.claimed = s.dio.claimed := by
  induction sc generalizing s acks with
  | nil =>
    obtain h | h := h <;> cases h
    exact ⟨rfl, rfl, rfl⟩
  | cons item sc ih =>
    obtain ⟨hitem, hrest⟩ := List.forall_mem_cons.mp hsc
    cases item with
    | setXst x => exact ih hrest (s := { s with xst := x }) h
    | setLink l => cases hitem
    | micro ph m =>
      cases hdue : s.resetDue with
      | true =>
        rw [runScript_micro_of_due hdue] at h
        obtain h | h := h <;> cases h
      | false =>
        have hkeep : ∀ v, (applyEvent (s.clk, s.dio) (okEvent v m)).1.claimed = s.clk.claimed ∧
            (applyEvent (s.clk, s.dio) (okEvent v m)).2.claimed = s.dio.claimed := by
          intro v
          cases m with
          | claim | rel => cases hitem
          | dir l _ | drv l _ | smp l => cases l <;> exact ⟨rfl, rfl⟩
          | hold => exact ⟨rfl, rfl⟩
        obtain ⟨v, d, hm⟩ | ⟨e, d, he, hm⟩ | hm := runMicro_ends m (s.enterPhase ph)
        · rw [runScript_micro_of_ok hdue hm] at h
          obtain ⟨hlink, hclk, hdio⟩ := ih hrest h
          exact ⟨hlink, hclk.trans (hkeep v).1, hdio.trans (hkeep v).2⟩
        · rw [runScript_micro_of_fail hdue hm] at h
          obtain h | h := h <;> cases h
          cases m with
          | claim | rel => cases hitem
          | dir l _ | drv l _ | smp l => cases he; cases l <;> exact ⟨rfl, rfl, rfl⟩
          | hold => cases he
        · rw [runScript_micro_of_bad hdue hm] at h
          obtain h | h := h <;> cases h

/-! ### How an admitted command ends, by the answers -/

/-- A command that ends with `code` at a state its script led to without touching the rest of `s`. -/
theorem ScriptFrame.finish_eq {s t : State} {evs : List LineEvent}
    (h : ScriptFrame s.beginScript t evs) (code : ResultCode) (acks : List Bool) :
    finish code acks t.endScript =
      { s with
        clk := (evs.foldl applyEvent (s.clk, s.dio)).1
        dio := (evs.foldl applyEvent (s.clk, s.dio)).2
        link := t.link
        xst := t.xst
        sequencer := none
        err := code
        ackcnt := acks.length
        ackv := BitVec.ofNat 32 (ackSum acks)
        trace := s.trace ++ evs
        draws := t.draws } := by
  have hclk := congrArg Prod.fst h.lines
  have hdio := congrArg Prod.snd h.lines
  simp only [finish, State.endScript, State.mk.injEq, true_and]
  exact ⟨hclk, hdio, h.bitOrder, h.hold, h.txbuf, h.trace, h.params, h.inputs, h.hostRead⟩

/-- The state after a script that ends with OK: the lines as its micro-operations lead them to `w`, its
events `evs` in the trace and its acknowledges as the result (R91, R141). -/
def State.afterScript (s : State) (sc : Script) (w : Wires) (evs : List LineEvent) : State :=
  { s with
    clk := w.1
    dio := w.2
    link := Script.linkAfter sc s.link
    xst := Script.xstAfter sc s.xst
    sequencer := none
    err := .ok
    ackcnt := (sampledAcks evs).length
    ackv := BitVec.ofNat 32 (ackSum (sampledAcks evs))
    trace := s.trace ++ evs
    draws := s.draws.used 0 (lineOps evs) (sampledAcks evs).length }

section ByAnswers

variable {sc : Script} {s : State} {w : Wires} {evs : List LineEvent}

/-- A command whose script leads somewhere ends with OK when its line operations all succeed (R91). -/
theorem perform_of_opsSucceed (hr : s.resetPending = false)
    (hclaim : ∀ m ∈ scriptMicros sc, m.isClaim = false)
    (hlead : microsLead (s.clk, s.dio) (scriptMicros sc) = some w)
    (hevs : microEvents (scriptMicros sc) s.levelAnswer = evs) (hops : s.OpsSucceed (lineOps evs)) :
    perform sc s = .next (s.afterScript sc w evs) := by
  subst hevs
  obtain hbad | ⟨t, hrun, hframe, -, hdraws⟩ | ⟨t, pre, e, rest, hsplit, he, -, -, -, hno, -⟩ :=
    runScript_answers sc s.beginScript [] hr hclaim
  · exact absurd hbad (runScript_ne_bad (s := s.beginScript) hlead _)
  · obtain ⟨hxst, hlink⟩ := runScript_done_marks hrun
    rw [perform, hrun]
    refine congrArg _ ((hframe.finish_eq _ _).trans ?_)
    rw [hxst, hlink, hdraws, (okEvents_microEvents _ _).foldl_applyEvent hlead]
    rfl
  · have hlt : lineOps pre < lineOps (microEvents (scriptMicros sc) s.levelAnswer) := by
      rw [show microEvents (scriptMicros sc) s.levelAnswer = pre ++ e :: rest from hsplit]
      simp [lineOps, he]
    cases (hops _ hlt).symm.trans hno

/-- The event of a failed sample is no acknowledge, and no other failed event is. -/
theorem sampledAcks_append_failedForm (pre : List LineEvent) (e : LineEvent) (he : e.isLineOp = true) :
    sampledAcks (pre ++ [e.failedForm]) = sampledAcks pre := by
  cases e <;> simp_all [sampledAcks, LineEvent.failedForm, LineEvent.isLineOp]

/-- A command of bus traffic whose script leads somewhere is aborted at the first line operation that fails
(R145). -/
theorem perform_of_not_opsSucceed (hr : s.resetPending = false) (htraffic : Script.IsTraffic sc)
    (hlead : microsLead (s.clk, s.dio) (scriptMicros sc) = some w)
    (hclk : s.clk.claimed = true) (hdio : s.dio.claimed = true)
    (hevs : microEvents (scriptMicros sc) s.levelAnswer = evs)
    (hops : ¬ s.OpsSucceed (lineOps evs)) :
    ∃ pre e rest, evs = pre ++ e :: rest ∧ e.isLineOp = true ∧ s.OpsSucceed (lineOps pre) ∧
      s.opAnswer (lineOps pre) = false ∧
      perform sc s = .next (s.afterAbort (pre ++ [e.failedForm])
        (s.draws.used 0 (lineOps pre + 1) (sampledAcks pre).length)) := by
  subst hevs
  obtain hbad | ⟨t, -, -, hsucc, -⟩ |
      ⟨t, pre, e, rest, hsplit, he, hrun, hframe, hsucc, hno, hdraws⟩ :=
    runScript_answers sc s.beginScript [] hr htraffic.noClaim
  · exact absurd hbad (runScript_ne_bad (s := s.beginScript) hlead _)
  · exact absurd hsucc hops
  · refine ⟨pre, e, rest, hsplit, he, hsucc, hno, ?_⟩
    obtain ⟨hlink, htclk, htdio⟩ := runScript_traffic htraffic (.inr hrun)
    rw [perform, hrun]
    simp only [List.nil_append, State.afterAbort, sampledAcks_append_failedForm pre e he]
    simp only [finish, abort, State.endScript, LineState.unknown, htclk, htdio, hlink, hdraws,
      hframe.trace, hframe.bitOrder, hframe.hold, hframe.txbuf, hframe.params, hframe.inputs,
      hframe.hostRead, beginScript_clk, beginScript_dio, hclk, hdio]
    rfl

end ByAnswers

end Sys2Proof.Machine
end

section
/-! PROOFS. The scripts of the commands and their events: where each script leads the lines, that it is bus
traffic, and what its events count (41_transport.md R106 to R116, 42_protocol.md R126). -/

namespace Sys2Proof.Machine

/-! ### Where the scripts lead -/

theorem startScript_leads :
    microsLead (.driven .high, .driven .high) (scriptMicros startScript) =
      some (.driven .low, .driven .low) := rfl

theorem bitScript_leads (i : Fin 8) (x v : Level) :
    microsLead (.driven .low, .driven x) (scriptMicros (bitScript i v)) =
      some (.driven .low, .driven v) := rfl

theorem ackScript_leads (x : Level) :
    microsLead (.driven .low, .driven x) (scriptMicros ackScript) =
      some (.driven .low, .driven x) := rfl

/-- After bit slots DIO has the level of the last one (R109). -/
theorem bitScripts_lead (slots : List (Fin 8)) (last : Fin 8) (f : Fin 8 → Level) (x : Level) :
    microsLead (.driven .low, .driven x)
        (scriptMicros ((slots ++ [last]).flatMap fun i => bitScript i (f i))) =
      some (.driven .low, .driven (f last)) := by
  induction slots generalizing x with
  | nil => exact bitScript_leads last x (f last)
  | cons i slots ih => exact microsLead_script_append (bitScript_leads i x (f i)) (ih (f i))

theorem sendByteScript_leads (order : BitOrder) (b : Byte) (x : Level) :
    microsLead (.driven .low, .driven x) (scriptMicros (sendByteScript order b)) =
      some (.driven .low, .driven (levelOf (bitAt order b 7))) :=
  microsLead_script_append
    (bitScripts_lead [0, 1, 2, 3, 4, 5, 6] 7 (fun i => levelOf (bitAt order b i)) x)
    (ackScript_leads _)

theorem bytesScript_leads (order : BitOrder) (bs : List Byte) (x : Level) :
    ∃ y, microsLead (.driven .low, .driven x) (scriptMicros (bs.flatMap (sendByteScript order))) =
      some (.driven .low, .driven y) := by
  induction bs generalizing x with
  | nil => exact ⟨x, rfl⟩
  | cons b bs ih =>
    obtain ⟨y, hy⟩ := ih (levelOf (bitAt order b 7))
    exact ⟨y, microsLead_script_append (sendByteScript_leads order b x) hy⟩

theorem stopScript_leads (x : Level) :
    microsLead (.driven .low, .driven x) (scriptMicros stopScript) =
      some (.driven .high, .driven .high) := rfl

theorem recoverScript_leads :
    microsLead (.unknown, .unknown) (scriptMicros recoverScript) =
      some (.driven .high, .driven .high) := rfl

/-- A frame leads from the idle bus to the idle bus (R126). -/
theorem frameScript_leads (order : BitOrder) (bs : List Byte) :
    microsLead (.driven .high, .driven .high) (scriptMicros (frameScript order bs)) =
      some (.driven .high, .driven .high) := by
  obtain ⟨y, hy⟩ := bytesScript_leads order bs .low
  exact microsLead_script_append (microsLead_script_append startScript_leads hy) (stopScript_leads y)

theorem closeScript_leads {w : Wires} (hclk : w.1.claimed = true) (hdio : w.2.claimed = true) :
    microsLead w (scriptMicros closeScript) = some (.released, .released) := by
  obtain ⟨clk, dio⟩ := w
  simp only at hclk hdio
  simp [closeScript, scriptMicros, microsLead, Micro.ready, lineOf, okEvent, applyEvent, hclk, hdio]

/-! ### Bus traffic -/

theorem bitScript_isTraffic (i : Fin 8) (v : Level) : Script.IsTraffic (bitScript i v) := by
  simp [Script.IsTraffic, bitScript, inPhase, Item.isTraffic, Micro.isTraffic]

theorem sendByteScript_isTraffic (order : BitOrder) (b : Byte) :
    Script.IsTraffic (sendByteScript order b) :=
  (Script.IsTraffic.flatMap (fun i => bitScript_isTraffic i _) bitSlots).append (by decide)

theorem frameScript_isTraffic (order : BitOrder) (bs : List Byte) :
    Script.IsTraffic (frameScript order bs) :=
  (Script.IsTraffic.append (by decide) (.flatMap (sendByteScript_isTraffic order) bs)).append (by decide)

theorem stopScriptIn_isTraffic (x : Xst) : Script.IsTraffic (stopScriptIn x) := by
  cases x <;> decide

theorem Script.IsTraffic.linkAfter {sc : Script} (h : Script.IsTraffic sc) (l : Link) :
    Script.linkAfter sc l = l := by
  induction sc with
  | nil => rfl
  | cons item sc ih =>
    obtain ⟨hitem, hrest⟩ := List.forall_mem_cons.mp h
    cases item with
    | setLink => cases hitem
    | micro | setXst => exact ih hrest

theorem sendByteScript_xstAfter (order : BitOrder) (b : Byte) (x : Xst) :
    Script.xstAfter (sendByteScript order b) x = x := rfl

theorem frameScript_xstAfter (order : BitOrder) (bs : List Byte) (x : Xst) :
    Script.xstAfter (frameScript order bs) x = .idle := by
  rw [frameScript, Script.xstAfter, List.foldl_append]
  rfl

/-! ### What the events count -/

theorem sendByteEvents_lineOps (order : BitOrder) (b : Byte) (v : Level) :
    lineOps (sendByteEvents order b v) = 29 := rfl

theorem sendByteEvents_length (order : BitOrder) (b : Byte) (v : Level) :
    (sendByteEvents order b v).length = 57 := rfl

theorem sendByteEvents_holds (order : BitOrder) (b : Byte) (v : Level) :
    (sendByteEvents order b v).count .hold = 28 := rfl

theorem sendByteEvents_acks (order : BitOrder) (b : Byte) (v : Level) :
    sampledAcks (sendByteEvents order b v) = [ackOf v] := rfl

theorem lineOps_append (a b : List LineEvent) : lineOps (a ++ b) = lineOps a + lineOps b :=
  List.countP_append

theorem sampledAcks_append (a b : List LineEvent) :
    sampledAcks (a ++ b) = sampledAcks a ++ sampledAcks b := List.filterMap_append

section BytesAndFrames

variable (order : BitOrder) (bs : List Byte) (levels : Nat → Level)

theorem bytesEvents_lineOps : lineOps (bytesEvents order bs levels) = 29 * bs.length := by
  induction bs generalizing levels with
  | nil => rfl
  | cons b bs ih =>
    rw [bytesEvents, lineOps_append, sendByteEvents_lineOps, ih, List.length_cons]
    omega

theorem bytesEvents_length : (bytesEvents order bs levels).length = 57 * bs.length := by
  induction bs generalizing levels with
  | nil => rfl
  | cons b bs ih =>
    rw [bytesEvents, List.length_append, sendByteEvents_length, ih, List.length_cons]
    omega

theorem bytesEvents_holds : (bytesEvents order bs levels).count .hold = 28 * bs.length := by
  induction bs generalizing levels with
  | nil => rfl
  | cons b bs ih =>
    rw [bytesEvents, List.count_append, sendByteEvents_holds, ih, List.length_cons]
    omega

/-- One acknowledge a byte, in order (R110). -/
theorem bytesEvents_acks :
    sampledAcks (bytesEvents order bs levels) =
      (List.range bs.length).map fun k => ackOf (levels k) := by
  induction bs generalizing levels with
  | nil => rfl
  | cons b bs ih =>
    rw [bytesEvents, sampledAcks_append, sendByteEvents_acks, ih, List.length_cons,
      List.range_succ_eq_map, List.map_cons, List.map_map]
    rfl

theorem frameEvents_lineOps : lineOps (frameEvents order bs levels) = 5 + 29 * bs.length := by
  rw [frameEvents, lineOps_append, lineOps_append, bytesEvents_lineOps]
  simp only [show lineOps startEvents = 2 from rfl, show lineOps stopEvents = 3 from rfl]
  omega

theorem frameEvents_length : (frameEvents order bs levels).length = 10 + 57 * bs.length := by
  rw [frameEvents, List.length_append, List.length_append, bytesEvents_length]
  simp only [show startEvents.length = 4 from rfl, show stopEvents.length = 6 from rfl]
  omega

theorem frameEvents_holds : (frameEvents order bs levels).count .hold = 5 + 28 * bs.length := by
  rw [frameEvents, List.count_append, List.count_append, bytesEvents_holds]
  simp only [show startEvents.count .hold = 2 from rfl, show stopEvents.count .hold = 3 from rfl]
  omega

theorem frameEvents_acks :
    sampledAcks (frameEvents order bs levels) =
      (List.range bs.length).map fun k => ackOf (levels k) := by
  rw [frameEvents, sampledAcks_append, sampledAcks_append, bytesEvents_acks]
  exact List.append_nil _

end BytesAndFrames

/-! ### The script of a command -/

/-- The script of an admitted command; of OPEN, its stages when none fails (R92, R93, R106 to R114,
R126 to R129). -/
def commandScript (s : State) : Instr → Script
  | .openLink => openStages.flatMap (·.1)
  | .closeLink => closeScript
  | .start => startScript
  | .writeByte b => sendByteScript s.bitOrder b
  | .stop => stopScriptIn s.xst
  | .writeCmd c => frameScript s.bitOrder [c]
  | .writeRegBuf r n => frameScript s.bitOrder (regBufBytes s r n)
  | .setBrightness l => frameScript s.bitOrder (brightnessBytes s.params l)

/-- An admitted command other than OPEN performs its script (R91). -/
theorem exec_eq_perform {i : Instr} {s : State} (hok : admission i s = .ok) (hopen : i ≠ .openLink)
    (hclose : i = .closeLink → s.link = .opened) : exec i s = perform (commandScript s i) s := by
  rw [exec_of_admitted hok hclose]
  cases i with
  | openLink => exact absurd rfl hopen
  | stop => rw [scriptRun, ← stopScriptIn_eq_ite, commandScript]
  | closeLink | start | writeByte | writeCmd | writeRegBuf | setBrightness => rfl

/-- The script of a command emits the events of the command. -/
theorem commandScript_events (s : State) (i : Instr) :
    microEvents (scriptMicros (commandScript s i)) s.levelAnswer = commandEvents s i := by
  cases i with
  | openLink | closeLink | start => rfl
  | writeByte b => exact sendByteScript_events s.bitOrder b s.levelAnswer
  | stop =>
    rw [commandScript, commandEvents]
    cases s.xst <;> rfl
  | writeCmd | writeRegBuf | setBrightness => exact frameScript_events s.bitOrder _ s.levelAnswer

theorem commandScript_isTraffic (s : State) {i : Instr} (hopen : i ≠ .openLink)
    (hclose : i ≠ .closeLink) : Script.IsTraffic (commandScript s i) := by
  cases i with
  | openLink => exact absurd rfl hopen
  | closeLink => exact absurd rfl hclose
  | start => exact (by decide : Script.IsTraffic startScript)
  | writeByte b => exact sendByteScript_isTraffic _ b
  | stop => exact stopScriptIn_isTraffic _
  | writeCmd | writeRegBuf | setBrightness => exact frameScript_isTraffic _ _

theorem commandScript_noClaim (s : State) {i : Instr} (hopen : i ≠ .openLink) :
    ∀ m ∈ scriptMicros (commandScript s i), m.isClaim = false := by
  by_cases hclose : i = .closeLink
  · subst hclose
    exact (by decide : ∀ m ∈ scriptMicros closeScript, m.isClaim = false)
  · exact (commandScript_isTraffic s hopen hclose).noClaim

end Sys2Proof.Machine
end

section
/-! PROOFS. OPEN (40_lines.md R92): its five ends, told by the environment's answers. -/

namespace Sys2Proof.Machine

/-! ### One micro-operation of OPEN -/

/-- The state after a micro-operation without a phase that emits `e` and takes `c` answers to a claim and `o`
to a line operation. -/
def State.ran (s : State) (e : LineEvent) (c o : Nat) : State :=
  ((s.enterPhase none).withEvent e (s.draws.used c o 0)).advance

theorem ran_frame {s : State} {e : LineEvent} {c o : Nat} : ScriptFrame s (s.ran e c o) [e] :=
  .event s none e _

@[simp] theorem ran_draws (s : State) (e : LineEvent) (c o : Nat) :
    (s.ran e c o).draws = s.draws.used c o 0 := rfl

/-- A micro-operation that takes no answer. -/
theorem ran_zero (s : State) (e : LineEvent) :
    s.ran e 0 0 = ((s.enterPhase none).withEvent e s.draws).advance := by
  rw [State.ran, Draws.used_zero]

@[simp] theorem beginScript_claimAnswer (s : State) (k : Nat) :
    s.beginScript.claimAnswer k = s.claimAnswer k := rfl

@[simp] theorem beginScript_opAnswer (s : State) (k : Nat) :
    s.beginScript.opAnswer k = s.opAnswer k := rfl

@[simp] theorem ran_claimAnswer (s : State) (e : LineEvent) (c o k : Nat) :
    (s.ran e c o).claimAnswer k = s.claimAnswer (c + k) := Source.answer_after _ _ _ _

@[simp] theorem ran_opAnswer (s : State) (e : LineEvent) (c o k : Nat) :
    (s.ran e c o).opAnswer k = s.opAnswer (o + k) := Source.answer_after _ _ _ _

section OneMicro

variable {s : State} {l : Line} {rest : Script} (hr : s.resetPending = false)
include hr

theorem runScript_claim_of_ok (hclaimed : (s.line l).claimed = false) (h : s.claimAnswer 0 = true) :
    runScript (.micro none (.claim l) :: rest) s [] =
      runScript rest (s.ran (.claim l true) 1 0) [] := by
  have hans : (s.enterPhase none).claimAnswer 0 = true := h
  rw [runScript_micro_of_ok (resetDue_of_not_pending hr)
    ((runMicro_claim_of_unclaimed (by simpa using hclaimed)).trans (if_pos hans))]
  cases l <;> rfl

theorem runScript_claim_of_fail (hclaimed : (s.line l).claimed = false)
    (h : s.claimAnswer 0 = false) :
    runScript (.micro none (.claim l) :: rest) s [] =
      .failed (s.ran (.claim l false) 1 0) [] := by
  have hans : ¬ (s.enterPhase none).claimAnswer 0 = true := fun hyes => by cases h.symm.trans hyes
  rw [runScript_micro_of_fail (resetDue_of_not_pending hr)
    ((runMicro_claim_of_unclaimed (by simpa using hclaimed)).trans (if_neg hans))]
  cases l <;> rfl

theorem runScript_claim_of_claimed (hclaimed : (s.line l).claimed = true) :
    runScript (.micro none (.claim l) :: rest) s [] = .bad :=
  runScript_micro_of_bad (resetDue_of_not_pending hr)
    (runMicro_claim_of_claimed (by simpa using hclaimed))

/-- DIR of OPEN and the HOLD behind it. -/
theorem runScript_dir_hold_of_ok {d : Dir} (hclaimed : (s.line l).claimed = true)
    (h : s.opAnswer 0 = true) :
    runScript (.micro none (.dir l d) :: .micro none .hold :: rest) s [] =
      runScript rest ((s.ran (.dir l d true) 0 1).ran .hold 0 0) [] := by
  have hans : (s.enterPhase none).opAnswer 0 = true := h
  rw [runScript_micro_of_ok (resetDue_of_not_pending hr)
    ((runMicro_dir_of_claimed d (by simpa using hclaimed)).trans (if_pos hans))]
  refine (runScript_micro_of_ok (resetDue_of_not_pending ?_) rfl).trans ?_
  · cases l <;> exact hr
  · rw [ran_zero]
    cases l <;> rfl

theorem runScript_dir_of_fail {d : Dir} (hclaimed : (s.line l).claimed = true)
    (h : s.opAnswer 0 = false) :
    runScript (.micro none (.dir l d) :: rest) s [] =
      .failed (s.ran (.dir l d false) 0 1) [] := by
  have hans : ¬ (s.enterPhase none).opAnswer 0 = true := fun hyes => by cases h.symm.trans hyes
  rw [runScript_micro_of_fail (resetDue_of_not_pending hr)
    ((runMicro_dir_of_claimed d (by simpa using hclaimed)).trans (if_neg hans))]
  cases l <;> rfl

theorem runScript_rel_of_claimed (hclaimed : (s.line l).claimed = true) :
    runScript (.micro none (.rel l) :: rest) s [] = runScript rest (s.ran (.rel l) 0 0) [] := by
  rw [runScript_micro_of_ok (resetDue_of_not_pending hr)
    (runMicro_rel_of_claimed (by simpa using hclaimed)), ran_zero]
  cases l <;> rfl

end OneMicro

/-! ### Stages -/

section Stages

variable {sc releases : Script} {rest : List (Script × Script)} {s s' s'' : State}
  {acks acks' : List Bool}

theorem runStages_cons_of_done (h : runScript sc s [] = .done s' acks) :
    runStages ((sc, releases) :: rest) s = runStages rest s' := by
  rw [runStages, h]

/-- A failed stage is followed by its releases (R92). -/
theorem runStages_cons_of_failed (h : runScript sc s [] = .failed s' acks)
    (hrel : runScript releases s' [] = .done s'' acks') :
    runStages ((sc, releases) :: rest) s = .failed s'' [] := by
  rw [runStages, h]
  simp only [hrel]

theorem runStages_cons_of_bad (h : runScript sc s [] = .bad) :
    runStages ((sc, releases) :: rest) s = .bad := by
  rw [runStages, h]

end Stages

/-! ### The ends of OPEN -/

/-- The last stage of OPEN marks LINK and XST (R92). -/
theorem runStages_last (s : State) :
    runStages (openStages.drop 4) s = .done { s with link := .opened, xst := .idle } [] := rfl

/-- The events of OPEN when it fails, by the micro-operation that fails (R92). -/
def openFailures : List (List LineEvent) :=
  [[.claim .clk false],
   [.claim .clk true, .claim .dio false, .rel .clk],
   [.claim .clk true, .claim .dio true, .dir .clk .output false, .rel .clk, .rel .dio],
   [.claim .clk true, .claim .dio true, .dir .clk .output true, .hold, .dir .dio .output false,
     .rel .clk, .rel .dio]]

/-- The state in which OPEN ends with `code` after events `evs`, `c` claims and `o` line operations. -/
def State.openEnded (s : State) (code : ResultCode) (evs : List LineEvent) (c o : Nat) : State :=
  { s with
    clk := (evs.foldl applyEvent (s.clk, s.dio)).1
    dio := (evs.foldl applyEvent (s.clk, s.dio)).2
    sequencer := none
    err := code
    ackcnt := 0
    ackv := 0
    trace := s.trace ++ evs
    draws := s.draws.used c o 0 }

theorem performOpen_of_failed {s t : State} {acks : List Bool} {evs : List LineEvent} {c o : Nat}
    (h : runStages openStages s.beginScript = .failed t acks)
    (hframe : ScriptFrame s.beginScript t evs) (hlink : t.link = s.link) (hxst : t.xst = s.xst)
    (hdraws : t.draws = s.draws.used c o 0) :
    performOpen s = .next (s.openEnded .configurationError evs c o) := by
  rw [performOpen, h]
  refine congrArg _ ((hframe.finish_eq _ _).trans ?_)
  rw [hlink, hxst, hdraws]
  rfl

/-- The state of OPEN when both lines are claimed. -/
def State.bothClaimed (s : State) : State :=
  (s.beginScript.ran (.claim .clk true) 1 0).ran (.claim .dio true) 1 0

theorem bothClaimed_frame (s : State) :
    ScriptFrame s.beginScript s.bothClaimed [.claim .clk true, .claim .dio true] :=
  ran_frame.trans ran_frame

/-- The state of OPEN when CLK is driven too. -/
def State.clkDriven (s : State) : State :=
  (s.bothClaimed.ran (.dir .clk .output true) 0 1).ran .hold 0 0

theorem clkDriven_frame (s : State) :
    ScriptFrame s.beginScript s.clkDriven
      [.claim .clk true, .claim .dio true, .dir .clk .output true, .hold] :=
  (bothClaimed_frame s).trans (ran_frame.trans ran_frame)

/-- The state of OPEN when both lines are driven. -/
def State.bothDriven (s : State) : State :=
  (s.clkDriven.ran (.dir .dio .output true) 0 1).ran .hold 0 0

theorem bothDriven_frame (s : State) : ScriptFrame s.beginScript s.bothDriven openEvents :=
  (clkDriven_frame s).trans (ran_frame.trans ran_frame)

section Ends

variable {s : State}

/-- Without CLK to claim OPEN has no meaning (R94). -/
theorem performOpen_of_clk_claimed (hr : s.resetPending = false) (hclk : s.clk.claimed = true) :
    performOpen s = .fault .badLineOp := by
  rw [performOpen, openStages,
    runStages_cons_of_bad (runScript_claim_of_claimed (l := .clk) (s := s.beginScript) hr hclk)]

variable (hr : s.resetPending = false) (hclk : s.clk.claimed = false)
include hr hclk

theorem performOpen_of_claim_clk_fails (h0 : s.claimAnswer 0 = false) :
    performOpen s = .next (s.openEnded .configurationError [.claim .clk false] 1 0) :=
  performOpen_of_failed
    (runStages_cons_of_failed (runScript_claim_of_fail (s := s.beginScript) hr hclk h0) rfl)
    ran_frame rfl rfl rfl

variable (h0 : s.claimAnswer 0 = true)
include h0

/-- OPEN with CLK claimed. -/
theorem runStages_openStages_eq :
    runStages openStages s.beginScript = runStages openStages.tail
      (s.beginScript.ran (.claim .clk true) 1 0) :=
  runStages_cons_of_done (runScript_claim_of_ok (s := s.beginScript) hr hclk h0)

/-- Without DIO to claim OPEN has no meaning (R94). -/
theorem performOpen_of_dio_claimed (hdio : s.dio.claimed = true) :
    performOpen s = .fault .badLineOp := by
  rw [performOpen, runStages_openStages_eq hr hclk h0, openStages, List.tail_cons,
    runStages_cons_of_bad (runScript_claim_of_claimed (l := .dio)
      (s := s.beginScript.ran (.claim .clk true) 1 0) hr hdio)]

variable (hdio : s.dio.claimed = false)
include hdio

theorem performOpen_of_claim_dio_fails (h1 : s.claimAnswer 1 = false) :
    performOpen s = .next
      (s.openEnded .configurationError [.claim .clk true, .claim .dio false, .rel .clk] 2 0) := by
  have hans : (s.beginScript.ran (.claim .clk true) 1 0).claimAnswer 0 = false := by
    simpa using h1
  refine performOpen_of_failed ((runStages_openStages_eq hr hclk h0).trans
    (runStages_cons_of_failed (runScript_claim_of_fail ?_ hdio hans)
      (runScript_rel_of_claimed (l := .clk) ?_ rfl)))
    ((ran_frame.trans ran_frame).trans ran_frame) rfl rfl
    (by simp)
  · exact hr
  · exact hr

variable (h1 : s.claimAnswer 1 = true)
include h1

/-- OPEN with both lines claimed. -/
theorem runStages_openStages_of_bothClaimed :
    runStages openStages s.beginScript = runStages (openStages.drop 2) s.bothClaimed := by
  have hans : (s.beginScript.ran (.claim .clk true) 1 0).claimAnswer 0 = true := by
    simpa using h1
  rw [runStages_openStages_eq hr hclk h0]
  exact runStages_cons_of_done (runScript_claim_of_ok (l := .dio) hr hdio hans)

theorem performOpen_of_dir_clk_fails (h2 : s.opAnswer 0 = false) :
    performOpen s = .next
      (s.openEnded .configurationError [.claim .clk true, .claim .dio true, .dir .clk .output false,
        .rel .clk, .rel .dio] 2 1) := by
  have hans : s.bothClaimed.opAnswer 0 = false := by simpa [State.bothClaimed] using h2
  refine performOpen_of_failed ((runStages_openStages_of_bothClaimed hr hclk h0 hdio h1).trans
    (runStages_cons_of_failed (runScript_dir_of_fail (l := .clk) ?_ rfl hans)
      ((runScript_rel_of_claimed (l := .clk) ?_ rfl).trans
        (runScript_rel_of_claimed (l := .dio) ?_ rfl))))
    ((bothClaimed_frame s).trans
      ((ran_frame.trans ran_frame).trans ran_frame)) rfl rfl
    (by simp [State.bothClaimed])
  · exact hr
  · exact hr
  · exact hr

variable (h2 : s.opAnswer 0 = true)
include h2

/-- OPEN with CLK driven. -/
theorem runStages_openStages_of_clkDriven :
    runStages openStages s.beginScript = runStages (openStages.drop 3) s.clkDriven := by
  have hans : s.bothClaimed.opAnswer 0 = true := by simpa [State.bothClaimed] using h2
  rw [runStages_openStages_of_bothClaimed hr hclk h0 hdio h1]
  exact runStages_cons_of_done (runScript_dir_hold_of_ok (s := s.bothClaimed) (l := .clk) hr rfl hans)

theorem performOpen_of_dir_dio_fails (h3 : s.opAnswer 1 = false) :
    performOpen s = .next
      (s.openEnded .configurationError [.claim .clk true, .claim .dio true, .dir .clk .output true,
        .hold, .dir .dio .output false, .rel .clk, .rel .dio] 2 2) := by
  have hans : s.clkDriven.opAnswer 0 = false := by
    simpa [State.clkDriven, State.bothClaimed] using h3
  refine performOpen_of_failed ((runStages_openStages_of_clkDriven hr hclk h0 hdio h1 h2).trans
    (runStages_cons_of_failed (runScript_dir_of_fail (l := .dio) ?_ rfl hans)
      ((runScript_rel_of_claimed (l := .clk) ?_ rfl).trans
        (runScript_rel_of_claimed (l := .dio) ?_ rfl))))
    ((clkDriven_frame s).trans
      ((ran_frame.trans ran_frame).trans ran_frame)) rfl rfl
    (by simp [State.bothClaimed, State.clkDriven])
  · exact hr
  · exact hr
  · exact hr

theorem performOpen_of_all_succeed (h3 : s.opAnswer 1 = true) :
    performOpen s = .next
      { s.openEnded .ok openEvents 2 2 with link := .opened, xst := .idle } := by
  have hans : s.clkDriven.opAnswer 0 = true := by simpa [State.clkDriven, State.bothClaimed] using h3
  have hrun : runStages openStages s.beginScript =
      .done { s.bothDriven with link := .opened, xst := .idle } [] := by
    rw [runStages_openStages_of_clkDriven hr hclk h0 hdio h1 h2]
    exact (runStages_cons_of_done (runScript_dir_hold_of_ok
      (s := s.clkDriven) (l := .dio) hr rfl hans)).trans (runStages_last _)
  have hframe : ScriptFrame s.beginScript { s.bothDriven with link := .opened, xst := .idle } openEvents :=
    (bothDriven_frame s).trans ((ScriptFrame.setLink _ .opened).trans (.setXst _ .idle))
  rw [performOpen, hrun]
  refine congrArg _ ((hframe.finish_eq _ _).trans ?_)
  simp [State.openEnded, State.bothDriven, State.clkDriven, State.bothClaimed, ackSum]

end Ends

/-- All OPEN can do without a pending reset: meet a line that is claimed already, succeed, or fail at one of
its claims or direction sets (R92, R94). -/
theorem performOpen_cases {s : State} (hr : s.resetPending = false) :
    ((s.clk.claimed = true ∨ s.dio.claimed = true) ∧ performOpen s = .fault .badLineOp) ∨
    performOpen s = .next { s.openEnded .ok openEvents 2 2 with link := .opened, xst := .idle } ∨
    ∃ evs ∈ openFailures, ∃ c o, performOpen s = .next (s.openEnded .configurationError evs c o) := by
  cases hclk : s.clk.claimed with
  | true => exact .inl ⟨.inl rfl, performOpen_of_clk_claimed hr hclk⟩
  | false =>
  cases h0 : s.claimAnswer 0 with
  | false =>
    exact .inr (.inr ⟨_, by decide, _, _, performOpen_of_claim_clk_fails hr hclk h0⟩)
  | true =>
  cases hdio : s.dio.claimed with
  | true => exact .inl ⟨.inr rfl, performOpen_of_dio_claimed hr hclk h0 hdio⟩
  | false =>
  cases h1 : s.claimAnswer 1 with
  | false =>
    exact .inr (.inr ⟨_, by decide, _, _, performOpen_of_claim_dio_fails hr hclk h0 hdio h1⟩)
  | true =>
  cases h2 : s.opAnswer 0 with
  | false =>
    exact .inr (.inr ⟨_, by decide, _, _, performOpen_of_dir_clk_fails hr hclk h0 hdio h1 h2⟩)
  | true =>
  cases h3 : s.opAnswer 1 with
  | false =>
    exact .inr (.inr ⟨_, by decide, _, _, performOpen_of_dir_dio_fails hr hclk h0 hdio h1 h2 h3⟩)
  | true => exact .inr (.inl (performOpen_of_all_succeed hr hclk h0 hdio h1 h2 h3))

/-- The events of an OPEN that ends are those of one of its five ends (R92), and it reports no
acknowledge. -/
theorem performOpen_events {s t : State} (hr : s.resetPending = false) (h : performOpen s = .next t) :
    ∃ evs ∈ openEvents :: openFailures, t.trace = s.trace ++ evs ∧ t.ackcnt = 0 ∧ t.ackv = 0 := by
  obtain ⟨-, hend⟩ | hend | ⟨evs, hevs, c, o, hend⟩ := performOpen_cases hr
  · cases hend.symm.trans h
  · cases hend.symm.trans h
    exact ⟨openEvents, List.mem_cons_self, rfl, rfl, rfl⟩
  · cases hend.symm.trans h
    exact ⟨evs, List.mem_cons_of_mem _ hevs, rfl, rfl, rfl⟩

end Sys2Proof.Machine
end

section
/-! PROOFS. Scripts and the rest of the state (70_reset_and_hazards.md R166): a script does the same whatever
HOLD, TXBUF and the pending inputs are, up to the point where a reset among those inputs cuts it. -/

namespace Sys2Proof.Machine

/-! ### The fields no script reads -/

/-- The state with other HOLD, TXBUF and pending inputs. -/
def State.withSide (s : State) (h : BitVec 16) (b : Vector Byte 16) (ins : List HostInput) : State :=
  { s with hold := h, txbuf := b, inputs := ins }

/-- The end of a micro-operation in another state. -/
def MicroEnd.mapState (f : State → State) : MicroEnd → MicroEnd
  | .ok s sample => .ok (f s) sample
  | .fail s => .fail (f s)
  | .bad => .bad

/-- The end of a script in another state. -/
def ScriptEnd.mapState (f : State → State) : ScriptEnd → ScriptEnd
  | .done s acks => .done (f s) acks
  | .failed s acks => .failed (f s) acks
  | .cut s => .cut (f s)
  | .bad => .bad

/-- No micro-operation reads HOLD, TXBUF or the pending inputs. -/
theorem runMicro_withSide (m : Micro) (s : State) (h : BitVec 16) (b : Vector Byte 16)
    (ins : List HostInput) :
    runMicro m (s.withSide h b ins) = (runMicro m s).mapState (·.withSide h b ins) := by
  have hline : ∀ l, (s.withSide h b ins).line l = s.line l := fun l => by cases l <;> rfl
  cases m with
  | claim l =>
    simp only [runMicro, microClaim, hline, drawClaimOk_eq]
    change (if _ then _ else if s.claimAnswer 0 = true then _ else _) = _
    split
    · rfl
    · split <;> cases l <;> rfl
  | dir l d =>
    simp only [runMicro, microDir, hline, drawOpOk_eq]
    change (if _ then if s.opAnswer 0 = true then _ else _ else _) = _
    split
    · split <;> cases l <;> rfl
    · rfl
  | drv l v =>
    simp only [runMicro, microDrv, hline, drawOpOk_eq]
    change (if _ then if s.opAnswer 0 = true then _ else _ else _) = _
    split
    · split <;> cases l <;> rfl
    · rfl
  | smp l =>
    simp only [runMicro, microSmp, hline, drawOpOk_eq]
    change (if _ then if s.opAnswer 0 = true then _ else _ else _) = _
    split
    · split <;> rfl
    · rfl
  | hold => rfl
  | rel l =>
    simp only [runMicro, microRel, hline]
    split
    · cases l <;> rfl
    · rfl

/-! ### A run and a reset -/

/-- The state in which a reset leaves a command that began at `s` and has emitted `evs` (R165, R166). -/
def State.cutAfter (s : State) (evs : List LineEvent) (d : Draws) (rest : List HostInput) : State :=
  { State.resetWith s.params with
    trace := s.trace ++ evs ++ [.rst], draws := d, inputs := rest, hostRead := s.hostRead }

/-- What a run that leads from `s` to the end `r` at `t`, with events `evs`, does in a state that differs in
HOLD, TXBUF and the pending inputs. If no reset there is due before it ends, it ends the same; if one is, it
is cut after as many events as the reset says. -/
structure Interruption (run : State → ScriptEnd) (s t : State) (r : ScriptEnd)
    (evs : List LineEvent) : Prop where
  trace : t.trace = s.trace ++ evs
  seq : t.seqIndex = s.seqIndex + evs.length
  params : t.params = s.params
  hostRead : t.hostRead = s.hostRead
  inputs : t.inputs = s.inputs
  bitOrder : t.bitOrder = s.bitOrder
  notCut : ∀ u, r ≠ .cut u
  late : ∀ h b ins, (∀ n rest, ins = .reset n :: rest → t.seqIndex ≤ n) →
    run (s.withSide h b ins) = r.mapState (·.withSide h b ins)
  cut : ∀ h b n rest, s.seqIndex ≤ n → n < t.seqIndex →
    ∃ d, run (s.withSide h b (.reset n :: rest)) =
      .cut (s.cutAfter (evs.take (n - s.seqIndex)) d rest)

/-- A run without a pending reset keeps to `Interruption` wherever it ends. -/
def Interruptible (run : State → ScriptEnd) : Prop :=
  ∀ {s t : State} {r : ScriptEnd}, s.resetPending = false → run s = r → r.state? = some t →
    ∃ evs, Interruption run s t r evs

/-- A run that goes on where another ended: `mark` is how the first ended. -/
theorem Interruption.andThen {run first second : State → ScriptEnd} {mark : State → ScriptEnd}
    {s t u : State} {r : ScriptEnd} {a b : List LineEvent}
    (hmark : ∀ f x, (mark x).mapState f = mark (f x))
    (hnext : ∀ x y, first x = mark y → run x = second y)
    (hcut : ∀ x y, first x = .cut y → run x = .cut y)
    (h : Interruption first s t (mark t) a) (k : Interruption second t u r b) :
    Interruption run s u r (a ++ b) where
  trace := by rw [k.trace, h.trace, List.append_assoc]
  seq := by rw [k.seq, h.seq, List.length_append, Nat.add_assoc]
  params := k.params.trans h.params
  hostRead := k.hostRead.trans h.hostRead
  inputs := k.inputs.trans h.inputs
  bitOrder := k.bitOrder.trans h.bitOrder
  notCut := k.notCut
  late := by
    intro hold buf ins hlate
    have hfirst := h.late hold buf ins fun n rest hins => by
      have := hlate n rest hins
      have := k.seq
      omega
    rw [hmark] at hfirst
    rw [hnext _ _ hfirst]
    exact k.late hold buf ins hlate
  cut := by
    intro hold buf n rest hs hu
    have hseq := h.seq
    by_cases hn : n < t.seqIndex
    · obtain ⟨d, hd⟩ := h.cut hold buf n rest hs hn
      refine ⟨d, ?_⟩
      rw [hcut _ _ hd, List.take_append_of_le_length (by omega)]
    · have hfirst := h.late hold buf (.reset n :: rest) fun n' rest' hins => by
        obtain ⟨rfl, -⟩ : n = n' ∧ rest = rest' := by simpa using hins
        omega
      rw [hmark] at hfirst
      obtain ⟨d, hd⟩ := k.cut hold buf n rest (by omega) hu
      refine ⟨d, ?_⟩
      rw [hnext _ _ hfirst, hd]
      have htake : (a ++ b).take (n - s.seqIndex) = a ++ b.take (n - t.seqIndex) := by
        rw [List.take_append, List.take_of_length_le (by omega)]
        congr 2
        omega
      simp only [State.cutAfter, htake, h.trace, h.params, h.hostRead, List.append_assoc]

/-- A run that begins by marking XST or LINK. -/
theorem Interruption.after {run second : State → ScriptEnd} {f : State → State} {s t : State}
    {r : ScriptEnd} {evs : List LineEvent} (hnext : ∀ x, run x = second (f x))
    (hside : ∀ h b ins, f (s.withSide h b ins) = (f s).withSide h b ins)
    (hf : ScriptFrame s (f s) []) (k : Interruption second (f s) t r evs) :
    Interruption run s t r evs where
  trace := by rw [k.trace, hf.trace, List.append_nil]
  seq := by rw [k.seq, hf.seq, List.length_nil, Nat.add_zero]
  params := k.params.trans hf.params
  hostRead := k.hostRead.trans hf.hostRead
  inputs := k.inputs.trans hf.inputs
  bitOrder := k.bitOrder.trans hf.bitOrder
  notCut := k.notCut
  late := fun h b ins hlate => by rw [hnext, hside, k.late h b ins hlate]
  cut := by
    intro h b n rest hs ht
    have hseq : (f s).seqIndex = s.seqIndex := hf.seq
    obtain ⟨d, hd⟩ := k.cut h b n rest (by omega) ht
    refine ⟨d, ?_⟩
    rw [hnext, hside, hd, hseq]
    simp only [State.cutAfter, hf.trace, hf.params, hf.hostRead, List.append_nil]

/-- A state with a reset in front of its pending inputs, due when the script has come as far. -/
theorem resetDue_withSide_reset (s : State) (h : BitVec 16) (b : Vector Byte 16) (n : Nat)
    (rest : List HostInput) :
    (s.withSide h b (.reset n :: rest)).resetDue = decide (n ≤ s.seqIndex) := rfl

/-- No reset is due in a state whose pending inputs hold none that has come so far. -/
theorem resetDue_withSide_of_late {s : State} {h : BitVec 16} {b : Vector Byte 16}
    {ins : List HostInput} (hlate : ∀ n rest, ins = .reset n :: rest → s.seqIndex < n) :
    (s.withSide h b ins).resetDue = false := by
  match ins, hlate with
  | [], _ => rfl
  | .access a :: rest, _ => rfl
  | .reset n :: rest, hlate =>
    have := hlate n rest rfl
    rw [resetDue_withSide_reset]
    simpa using this

/-- One micro-operation, alone in its script. -/
theorem runMicro_interruption {m : Micro} {ph : Option Phase} {s t : State} {acks : List Bool}
    {r : ScriptEnd} (hr : s.resetPending = false) (hrun : runScript [.micro ph m] s acks = r)
    (ht : r.state? = some t) :
    ∃ e, Interruption (runScript [.micro ph m] · acks) s t r [e] := by
  have hdue := resetDue_of_not_pending hr
  have hcut : ∀ h b n rest, s.seqIndex ≤ n → n < s.seqIndex + 1 → ∃ d,
      runScript [.micro ph m] (s.withSide h b (.reset n :: rest)) acks =
        .cut (s.cutAfter [] d rest) := by
    intro h b n rest hs ht
    refine ⟨s.draws, ?_⟩
    rw [runScript_micro_of_due (by rw [resetDue_withSide_reset]; simp; omega), State.cutAfter,
      List.append_nil]
    rfl
  have hside : ∀ h b ins, runMicro m ((s.withSide h b ins).enterPhase ph) =
      (runMicro m (s.enterPhase ph)).mapState (·.withSide h b ins) :=
    fun h b ins => runMicro_withSide m (s.enterPhase ph) h b ins
  obtain ⟨v, d, h⟩ | ⟨e, d, -, h⟩ | h := runMicro_ends m (s.enterPhase ph)
  · rw [runScript_micro_of_ok hdue h, runScript_nil] at hrun
    subst hrun
    cases ht
    refine ⟨okEvent v m, rfl, rfl, rfl, rfl, rfl, rfl, (fun _ => by simp), fun hold b ins hlate => ?_,
      fun hold b n rest hs ht => ?_⟩
    · refine (runScript_micro_of_ok (s := s.withSide hold b ins)
        (s' := ((s.enterPhase ph).withEvent (okEvent v m) d).withSide hold b ins)
        (resetDue_withSide_of_late hlate) ?_).trans rfl
      rw [hside, h]
      rfl
    · rw [show n - s.seqIndex = 0 by have : n < s.seqIndex + 1 := ht; omega]
      exact hcut hold b n rest hs ht
  · rw [runScript_micro_of_fail hdue h] at hrun
    subst hrun
    cases ht
    refine ⟨e, rfl, rfl, rfl, rfl, rfl, rfl, (fun _ => by simp), fun hold b ins hlate => ?_,
      fun hold b n rest hs ht => ?_⟩
    · refine (runScript_micro_of_fail (s := s.withSide hold b ins)
        (s' := ((s.enterPhase ph).withEvent e d).withSide hold b ins)
        (resetDue_withSide_of_late hlate) ?_).trans rfl
      rw [hside, h]
      rfl
    · rw [show n - s.seqIndex = 0 by have : n < s.seqIndex + 1 := ht; omega]
      exact hcut hold b n rest hs ht
  · rw [runScript_micro_of_bad hdue h] at hrun
    subst hrun
    cases ht

/-- A run of no micro-operation. -/
theorem Interruption.refl {run : State → ScriptEnd} {s : State} {r : ScriptEnd}
    (hcut : ∀ u, r ≠ .cut u)
    (h : ∀ hold b ins, run (s.withSide hold b ins) = r.mapState (·.withSide hold b ins)) :
    Interruption run s s r [] :=
  ⟨(List.append_nil _).symm, rfl, rfl, rfl, rfl, rfl, hcut, fun hold b ins _ => h hold b ins,
    fun _ _ _ _ hs ht => absurd ht (Nat.not_lt.mpr hs)⟩

/-- A run that ends as another does. -/
theorem Interruption.thenEnd {run first : State → ScriptEnd} {mark final : State → ScriptEnd}
    {s t : State} {evs : List LineEvent} (hmark : ∀ f x, (mark x).mapState f = mark (f x))
    (hfinal : ∀ f x, (final x).mapState f = final (f x)) (hnotCut : ∀ x u, final x ≠ .cut u)
    (hnext : ∀ x y, first x = mark y → run x = final y)
    (hcut : ∀ x y, first x = .cut y → run x = .cut y)
    (h : Interruption first s t (mark t) evs) : Interruption run s t (final t) evs := by
  have := h.andThen hmark hnext hcut
    (.refl (hnotCut t) fun hold b ins => (hfinal (·.withSide hold b ins) t).symm)
  rwa [List.append_nil] at this

/-- Without a pending reset a script is not cut (R166). -/
theorem runScript_ne_cut {sc : Script} {s u : State} {acks : List Bool}
    (hr : s.resetPending = false) : runScript sc s acks ≠ .cut u := by
  intro hcut
  obtain ⟨t, evs, h, -⟩ | ⟨t, evs, e, h, -⟩ | ⟨t, evs, -, hframe, hdue, -⟩ | h :=
    hcut ▸ runScript_ends sc s acks
  · cases h
  · cases h
  · have hrt : t.resetPending = false := by rw [State.resetPending, hframe.inputs]; exact hr
    cases (resetDue_of_not_pending hrt).symm.trans hdue
  · cases h

theorem runScript_interruptible (sc : Script) (acks : List Bool) :
    Interruptible (runScript sc · acks) := by
  induction sc generalizing acks with
  | nil =>
    intro s t r hr hrun ht
    subst hrun
    cases ht
    exact ⟨[], .refl (fun _ => by simp) fun _ _ _ => rfl⟩
  | cons item sc ih =>
    intro s t r hr hrun ht
    beta_reduce at hrun
    cases item with
    | setXst x =>
      obtain ⟨evs, k⟩ := ih acks (s := { s with xst := x }) hr hrun ht
      exact ⟨evs, .after (f := fun s => { s with xst := x }) (fun _ => rfl) (fun _ _ _ => rfl)
        (.setXst s x) k⟩
    | setLink l =>
      obtain ⟨evs, k⟩ := ih acks (s := { s with link := l }) hr hrun ht
      exact ⟨evs, .after (f := fun s => { s with link := l }) (fun _ => rfl) (fun _ _ _ => rfl)
        (.setLink s l) k⟩
    | micro ph m =>
      have hsplit : ∀ x, runScript (.micro ph m :: sc) x acks =
          match runScript [.micro ph m] x acks with
          | .done y acks' => runScript sc y acks'
          | e => e := fun x => runScript_append [.micro ph m] sc x acks
      cases hfirst : runScript [.micro ph m] s acks with
      | done u acks' =>
        obtain ⟨e, h⟩ := runMicro_interruption hr hfirst rfl
        rw [hsplit, hfirst] at hrun
        have hru : u.resetPending = false := by rw [State.resetPending, h.inputs]; exact hr
        obtain ⟨evs, k⟩ := ih acks' hru hrun ht
        exact ⟨_, h.andThen (mark := (.done · acks')) (fun _ _ => rfl)
          (fun x y hxy => by rw [hsplit, hxy]) (fun x y hxy => by rw [hsplit, hxy]) k⟩
      | failed u acks' =>
        obtain ⟨e, h⟩ := runMicro_interruption hr hfirst rfl
        rw [hsplit, hfirst] at hrun
        subst hrun
        cases ht
        exact ⟨_, h.thenEnd (mark := (.failed · acks')) (final := (.failed · acks')) (fun _ _ => rfl)
          (fun _ _ => rfl) (fun _ _ => by simp) (fun x y hxy => by rw [hsplit, hxy])
          (fun x y hxy => by rw [hsplit, hxy])⟩
      | cut u => exact absurd hfirst (runScript_ne_cut hr)
      | bad =>
        rw [hsplit, hfirst] at hrun
        subst hrun
        cases ht

/-- The releases after a failed stage of OPEN (R92). -/
def runReleases (releases : Script) (s : State) : ScriptEnd :=
  match runScript releases s [] with
  | .done t _ => .failed t []
  | e => e

theorem runReleases_interruptible (releases : Script) : Interruptible (runReleases releases) := by
  intro s t r hr hrun ht
  rw [runReleases] at hrun
  cases hfirst : runScript releases s [] with
  | done u acks =>
    obtain ⟨evs, h⟩ := runScript_interruptible releases [] hr hfirst rfl
    rw [hfirst] at hrun
    subst hrun
    cases ht
    exact ⟨evs, h.thenEnd (mark := (.done · acks)) (final := (.failed · [])) (fun _ _ => rfl)
      (fun _ _ => rfl) (fun _ _ => by simp) (fun x y hxy => by rw [runReleases, hxy])
      (fun x y hxy => by rw [runReleases, hxy])⟩
  | failed u acks =>
    obtain ⟨evs, h⟩ := runScript_interruptible releases [] hr hfirst rfl
    rw [hfirst] at hrun
    subst hrun
    cases ht
    exact ⟨evs, h.thenEnd (mark := (.failed · acks)) (final := (.failed · acks)) (fun _ _ => rfl)
      (fun _ _ => rfl) (fun _ _ => by simp) (fun x y hxy => by rw [runReleases, hxy])
      (fun x y hxy => by rw [runReleases, hxy])⟩
  | cut u => exact absurd hfirst (runScript_ne_cut hr)
  | bad =>
    rw [hfirst] at hrun
    subst hrun
    cases ht

/-- A stage of OPEN, and what follows it (R92). -/
theorem runStages_cons (sc releases : Script) (rest : List (Script × Script)) (s : State) :
    runStages ((sc, releases) :: rest) s =
      match runScript sc s [] with
      | .done t _ => runStages rest t
      | .failed t _ => runReleases releases t
      | e => e := by
  rw [runStages]
  cases runScript sc s [] with
  | failed t acks => cases hrel : runScript releases t [] <;> simp only [runReleases, hrel]
  | done | cut | bad => rfl

theorem runStages_interruptible (stages : List (Script × Script)) :
    Interruptible (runStages stages) := by
  induction stages with
  | nil =>
    intro s t r hr hrun ht
    obtain rfl : .done s [] = r := hrun
    cases ht
    exact ⟨[], .refl (fun _ => by simp) fun _ _ _ => rfl⟩
  | cons stage rest ih =>
    intro s t r hr hrun ht
    obtain ⟨sc, releases⟩ := stage
    rw [runStages_cons] at hrun
    cases hfirst : runScript sc s [] with
    | done u acks =>
      obtain ⟨a, h⟩ := runScript_interruptible sc [] hr hfirst rfl
      rw [hfirst] at hrun
      have hru : u.resetPending = false := by rw [State.resetPending, h.inputs]; exact hr
      obtain ⟨b, k⟩ := ih hru hrun ht
      exact ⟨a ++ b, h.andThen (mark := (.done · acks)) (fun _ _ => rfl)
        (fun x y hxy => by rw [runStages_cons, hxy]) (fun x y hxy => by rw [runStages_cons, hxy]) k⟩
    | failed u acks =>
      obtain ⟨a, h⟩ := runScript_interruptible sc [] hr hfirst rfl
      rw [hfirst] at hrun
      have hru : u.resetPending = false := by rw [State.resetPending, h.inputs]; exact hr
      obtain ⟨b, k⟩ := runReleases_interruptible releases hru hrun ht
      exact ⟨a ++ b, h.andThen (mark := (.failed · acks)) (fun _ _ => rfl)
        (fun x y hxy => by rw [runStages_cons, hxy]) (fun x y hxy => by rw [runStages_cons, hxy]) k⟩
    | cut u => exact absurd hfirst (runScript_ne_cut hr)
    | bad =>
      rw [hfirst] at hrun
      subst hrun
      cases ht

end Sys2Proof.Machine
end

section
/-! PROOFS. Commands and resets (70_reset_and_hazards.md R166), and what a command neither reads nor changes:
CONFIG.HOLD, the entries of TXBUF it does not send, the parameters and the pending inputs (R86, R128). -/

namespace Sys2Proof.Machine

/-! ### A command as one run -/

/-- The command has a script to run: it is admitted, and CLOSE has an open link to close (R93, R142). -/
def Runs (i : Instr) (s : State) : Prop :=
  admission i s = .ok ∧ (i = .closeLink → s.link = .opened)

/-- The run of an admitted command (R91, R92). -/
def commandRun (s : State) (i : Instr) (x : State) : ScriptEnd :=
  if i = .openLink then runStages openStages x else runScript (commandScript s i) x []

/-- The end of an admitted command (R91, R92, R145, R166). -/
def commandEnd (i : Instr) : ScriptEnd → Host.Outcome State Fault Refusal
  | .done t acks => .next (finish .ok (if i = .openLink then [] else acks) t.endScript)
  | .failed t acks => .next
    (if i = .openLink then finish .configurationError [] t.endScript
    else finish .ioError acks (abort t).endScript)
  | .cut t => .next t
  | .bad => .fault .badLineOp

/-- What is not run changes the result alone (R93, R144). -/
theorem exec_of_not_runs {i : Instr} {s : State} (h : ¬ Runs i s) :
    exec i s = .next (s.rejected (admission i s)) := by
  by_cases hok : admission i s = .ok
  · have hclose : i = .closeLink ∧ s.link ≠ .opened := by
      simpa [Runs, hok] using h
    obtain ⟨rfl, hlink⟩ := hclose
    exact exec_closeLink_of_not_opened hlink
  · exact exec_of_not_admitted hok

theorem exec_openLink_of_runs {s : State} (h : Runs .openLink s) :
    exec .openLink s = performOpen s :=
  exec_of_admitted h.1 h.2

theorem exec_of_runs {i : Instr} {s : State} (h : Runs i s) :
    exec i s = commandEnd i (commandRun s i s.beginScript) := by
  by_cases hopen : i = .openLink
  · subst hopen
    rw [exec_openLink_of_runs h, performOpen, commandRun, if_pos rfl]
    cases runStages openStages s.beginScript <;> rfl
  · rw [exec_eq_perform h.1 hopen h.2, perform, commandRun, if_neg hopen]
    cases runScript (commandScript s i) s.beginScript [] <;> simp [commandEnd, hopen]

theorem commandRun_interruptible (s : State) (i : Instr) : Interruptible (commandRun s i) := by
  unfold commandRun
  split
  · exact runStages_interruptible openStages
  · exact runScript_interruptible _ []

/-! ### A command in a state with other HOLD, TXBUF and pending inputs -/

/-- What a command that ends at `t` with events `evs`, no reset being pending, keeps, and what it does with
other HOLD, TXBUF and pending inputs, as long as its script is the same. -/
structure CommandInterruption (i : Instr) (s t : State) (evs : List LineEvent) : Prop where
  trace : t.trace = s.trace ++ evs
  params : t.params = s.params
  hostRead : t.hostRead = s.hostRead
  bitOrder : t.bitOrder = s.bitOrder
  late : ∀ h b ins, commandScript (s.withSide h b ins) i = commandScript s i →
    (∀ n rest, ins = .reset n :: rest → evs.length ≤ n) →
      exec i (s.withSide h b ins) = .next (t.withSide h b ins)
  cut : ∀ h b n rest, commandScript (s.withSide h b (.reset n :: rest)) i = commandScript s i →
    n < evs.length →
      ∃ d, exec i (s.withSide h b (.reset n :: rest)) = .next (s.cutAfter (evs.take n) d rest)

/-- Admission does not read HOLD, TXBUF or the pending inputs (R142). -/
theorem runs_withSide (i : Instr) (s : State) (h : BitVec 16) (b : Vector Byte 16)
    (ins : List HostInput) : Runs i (s.withSide h b ins) ↔ Runs i s := by
  rw [Runs, Runs, admission_congr (s := s) (t := s.withSide h b ins) i rfl rfl rfl]
  rfl

theorem commandInterruption_of_not_runs {i : Instr} {s : State} (h : ¬ Runs i s) :
    CommandInterruption i s (s.rejected (admission i s)) [] where
  trace := (List.append_nil _).symm
  params := rfl
  hostRead := rfl
  bitOrder := rfl
  late := fun hold b ins _ _ => by
    have hadm : admission i (s.withSide hold b ins) = admission i s := admission_congr i rfl rfl rfl
    rw [exec_of_not_runs ((runs_withSide i s hold b ins).not.mpr h), hadm]
    rfl
  cut := fun _ _ n _ _ hn => absurd hn (Nat.not_lt_zero n)

theorem commandInterruption_of_runs {i : Instr} {s t : State} (hruns : Runs i s)
    (hr : s.resetPending = false) (h : exec i s = .next t) :
    ∃ evs, CommandInterruption i s t evs := by
  have hside : ∀ hold b ins, commandScript (s.withSide hold b ins) i = commandScript s i →
      exec i (s.withSide hold b ins) =
        commandEnd i (commandRun s i (s.beginScript.withSide hold b ins)) := by
    intro hold b ins hsame
    rw [exec_of_runs ((runs_withSide i s hold b ins).mpr hruns), commandRun, commandRun, hsame]
    rfl
  have hr' : s.beginScript.resetPending = false := hr
  rw [exec_of_runs hruns] at h
  cases hrun : commandRun s i s.beginScript with
  | done u acks =>
    obtain ⟨evs, k⟩ := commandRun_interruptible s i hr' hrun rfl
    rw [hrun] at h
    cases h
    refine ⟨evs, k.trace, k.params, k.hostRead, k.bitOrder, fun hold b ins hsame hlate => ?_,
      fun hold b n rest hsame hn => ?_⟩
    · rw [hside hold b ins hsame, k.late hold b ins fun n rest hins => by
        rw [k.seq]
        simpa using hlate n rest hins]
      rfl
    · obtain ⟨d, hd⟩ := k.cut hold b n rest (Nat.zero_le n) (by rw [k.seq]; simpa using hn)
      exact ⟨d, by rw [hside hold b _ hsame, hd]; rfl⟩
  | failed u acks =>
    obtain ⟨evs, k⟩ := commandRun_interruptible s i hr' hrun rfl
    rw [hrun] at h
    cases h
    refine ⟨evs, ?_, ?_, ?_, ?_, fun hold b ins hsame hlate => ?_,
      fun hold b n rest hsame hn => ?_⟩
    · split <;> exact k.trace
    · split <;> exact k.params
    · split <;> exact k.hostRead
    · split <;> exact k.bitOrder
    · rw [hside hold b ins hsame, k.late hold b ins fun n rest hins => by
        rw [k.seq]
        simpa using hlate n rest hins]
      simp only [ScriptEnd.mapState, commandEnd]
      split <;> rfl
    · obtain ⟨d, hd⟩ := k.cut hold b n rest (Nat.zero_le n) (by rw [k.seq]; simpa using hn)
      exact ⟨d, by rw [hside hold b _ hsame, hd]; rfl⟩
  | cut u =>
    obtain ⟨evs, k⟩ := commandRun_interruptible s i hr' hrun rfl
    exact absurd rfl (k.notCut u)
  | bad =>
    rw [hrun] at h
    cases h

theorem exec_commandInterruption {i : Instr} {s t : State} (hr : s.resetPending = false)
    (h : exec i s = .next t) : ∃ evs, CommandInterruption i s t evs := by
  by_cases hruns : Runs i s
  · exact commandInterruption_of_runs hruns hr h
  · rw [exec_of_not_runs hruns] at h
    cases h
    exact ⟨[], commandInterruption_of_not_runs hruns⟩

/-- Without a pending reset no pending input is a reset to come. -/
theorem no_reset_of_not_pending {s : State} (hr : s.resetPending = false) {n : Nat}
    {rest : List HostInput} (h : s.inputs = .reset n :: rest) : False := by
  simp [State.resetPending, h] at hr

/-- A command keeps HOLD, TXBUF and the pending inputs: with those of `s` itself it ends the same. -/
theorem exec_keeps_side {i : Instr} {s t : State} (hr : s.resetPending = false)
    (h : exec i s = .next t) : t.hold = s.hold ∧ t.txbuf = s.txbuf ∧ t.inputs = s.inputs := by
  obtain ⟨evs, k⟩ := exec_commandInterruption hr h
  have hself := k.late s.hold s.txbuf s.inputs rfl fun n rest hins =>
    (no_reset_of_not_pending hr hins).elim
  have ht : t = t.withSide s.hold s.txbuf s.inputs := by
    have := h.symm.trans hself
    simpa using this
  rw [ht]
  exact ⟨rfl, rfl, rfl⟩

/-! ### Resets -/

/-- A state with a reset in front is one without pending inputs, and the reset put in front. -/
theorem withSide_of_inputs {s : State} {ins : List HostInput} (h : s.inputs = ins) :
    ({ s with inputs := [] } : State).withSide s.hold s.txbuf ins = s := by
  subst h
  rfl

/-- Settles O11: the run without the reset is cut after `n` events. -/
theorem resetCutsCommand : Obligations.ResetCutsCommand := by
  intro i s t n rest evs hin h htrace hn
  obtain ⟨evs', k⟩ := exec_commandInterruption (s := { s with inputs := [] }) rfl h
  obtain rfl : evs' = evs := List.append_cancel_left (k.trace.symm.trans htrace)
  obtain ⟨d, hd⟩ := k.cut s.hold s.txbuf n rest (by cases i <;> rfl) hn
  rw [withSide_of_inputs hin] at hd
  exact ⟨d, hd⟩

/-- Settles O12: the run without the reset ends before the reset is due. -/
theorem lateResetLeavesCommand : Obligations.LateResetLeavesCommand := by
  intro i s t n rest evs hin h htrace hn
  obtain ⟨evs', k⟩ := exec_commandInterruption (s := { s with inputs := [] }) rfl h
  obtain ⟨hhold, htxbuf, -⟩ := exec_keeps_side (s := { s with inputs := [] }) rfl h
  obtain rfl : evs' = evs := List.append_cancel_left (k.trace.symm.trans htrace)
  have hlate := k.late s.hold s.txbuf (.reset n :: rest) (by cases i <;> rfl) fun n' rest' hins => by
    obtain ⟨rfl, -⟩ : n = n' ∧ rest = rest' := by simpa using hins
    exact hn
  rw [withSide_of_inputs hin] at hlate
  rw [hlate, State.withSide, ← hhold, ← htxbuf]

/-! ### What a command does not read -/

/-- Settles O45: no script reads HOLD. -/
theorem holdValueIsTimingOnly : Obligations.HoldValueIsTimingOnly := by
  intro i s t h hr hexec
  obtain ⟨evs, k⟩ := exec_commandInterruption hr hexec
  obtain ⟨-, htxbuf, hinputs⟩ := exec_keeps_side hr hexec
  have hlate := k.late h s.txbuf s.inputs (by cases i <;> rfl) fun n rest hins =>
    (no_reset_of_not_pending hr hins).elim
  rw [← show t.withSide h t.txbuf t.inputs = { t with hold := h } from rfl, htxbuf, hinputs]
  exact hlate

/-- The payload is the same where the entries below LEN are. -/
theorem payload_congr {s : State} {n : Byte} {other : Vector Byte 16}
    (h : ∀ k : Fin 16, k.val < n.toNat → other[k] = s.txbuf[k]) :
    other.toList.take n.toNat = s.txbuf.toList.take n.toNat := by
  apply List.ext_getElem
  · simp
  · intro k hk _
    have hk' : k < n.toNat ∧ k < 16 := by simpa using hk
    simpa using h ⟨k, hk'.2⟩ hk'.1

/-- Settles O44: the script of WRITE_REG_BUF sends the entries below LEN, and no script reads TXBUF
otherwise. -/
theorem entriesFromLenOnAreNotRead : Obligations.EntriesFromLenOnAreNotRead := by
  intro s t r n other hr hsame hexec
  obtain ⟨evs, k⟩ := exec_commandInterruption hr hexec
  obtain ⟨hhold, -, hinputs⟩ := exec_keeps_side hr hexec
  have hscript : commandScript (s.withSide s.hold other s.inputs) (.writeRegBuf r n) =
      commandScript s (.writeRegBuf r n) := by
    simp only [commandScript, regBufBytes, payload, State.withSide, payload_congr hsame]
  have hlate := k.late s.hold other s.inputs hscript fun n rest hins =>
    (no_reset_of_not_pending hr hins).elim
  rw [← show t.withSide t.hold other t.inputs = { t with txbuf := other } from rfl, hhold, hinputs]
  exact hlate

end Sys2Proof.Machine
end

section
/-! PROOFS. How every command ends from a resting state (10_state.md R25): with the effect of its script, or
aborted by the line operation that fails (60_exceptions.md R145). -/

namespace Sys2Proof.Machine

/-! ### The resting state a command starts in -/

theorem Runs.opened {i : Instr} {s : State} (h : Runs i s) (hopen : i ≠ .openLink) :
    s.link = .opened := by
  obtain ⟨hok, hclose⟩ := h
  cases i with
  | openLink => exact absurd rfl hopen
  | closeLink => exact hclose rfl
  | start | writeByte | stop | writeCmd | writeRegBuf | setBrightness =>
    cases hlink : s.link with
    | opened => rfl
    | unopened | closed => simp [admission, admission.inLink, hlink] at hok

theorem Runs.unopened {s : State} (h : Runs .openLink s) : s.link = .unopened := by
  have hok := h.1
  cases hlink : s.link with
  | unopened => rfl
  | opened | closed => simp [admission, hlink] at hok

/-- START and the framed commands run on the idle bus alone (R142). -/
theorem Runs.idle {i : Instr} {s : State} (h : Runs i s) (hi : i = .start ∨ isFramed i = true) :
    s.xst = .idle := by
  have hlink := h.opened (by rintro rfl; simp [isFramed] at hi)
  have hok := h.1
  by_contra hx
  cases i <;> simp [admission, admission.inLink, isFramed, hlink, hx] at hok hi

theorem Runs.inframe {b : Byte} {s : State} (h : Runs (.writeByte b) s) : s.xst = .inframe := by
  have hlink := h.opened (by simp)
  have hok := h.1
  by_contra hx
  simp [admission, admission.inLink, hlink, hx] at hok

theorem Runs.stop_xst {s : State} (h : Runs .stop s) : s.xst ≠ .idle := by
  have hlink := h.opened (by simp)
  have hok := h.1
  intro hx
  simp [admission, admission.inLink, hlink, hx] at hok

/-- The payload of an admitted WRITE_REG_BUF fits TXBUF (R10, R128). -/
theorem Runs.payload_le {r n : Byte} {s : State} (h : Runs (.writeRegBuf r n) s) : n.toNat ≤ 16 := by
  have hlink := h.opened (by simp)
  have hidle := h.idle (.inr rfl)
  have hok := h.1
  have hmax : s.params.maxPayload.val < 17 := s.params.maxPayload.isLt
  simp [admission, admission.inLink, hlink, hidle] at hok
  omega

section Resting

variable {s : State} (hrest : s.Resting)
include hrest

theorem linesReleased_of_not_opened (h : s.link ≠ .opened) : s.LinesReleased := by
  obtain hs | hs | hs | hs := hrest
  · exact hs
  · exact absurd hs.1 h
  · exact absurd hs.1 h
  · exact absurd hs.1 h

theorem busIdle_of_idle (hlink : s.link = .opened) (h : s.xst = .idle) : s.BusIdle := by
  obtain hs | hs | hs | hs := hrest
  · exact absurd hlink hs.1
  · exact hs
  · cases h.symm.trans hs.2.1
  · cases h.symm.trans hs.2.1

theorem inFrame_of_inframe (h : s.xst = .inframe) : s.InFrame := by
  obtain hs | hs | hs | hs := hrest
  · cases h.symm.trans hs.2.1
  · cases h.symm.trans hs.2.1
  · exact hs
  · cases h.symm.trans hs.2.1

theorem busAborted_of_aborted (h : s.xst = .aborted) : s.BusAborted := by
  obtain hs | hs | hs | hs := hrest
  · cases h.symm.trans hs.2.1
  · cases h.symm.trans hs.2.1
  · cases h.symm.trans hs.2.1
  · exact hs

/-- With LINK = OPEN both lines are claimed (R25). -/
theorem claimed_of_opened (hlink : s.link = .opened) :
    s.clk.claimed = true ∧ s.dio.claimed = true := by
  obtain hs | ⟨-, -, hclk, hdio⟩ | ⟨-, -, hclk, hdio | hdio⟩ | ⟨-, -, hclk, hdio⟩ := hrest
  · exact absurd hlink hs.1
  all_goals
    rw [hclk, hdio]
    exact ⟨rfl, rfl⟩

end Resting

/-! ### Where the script of a command leads -/

/-- In an open transaction the lines are CLK LOW and DIO driven. -/
theorem lines_of_inFrame {s : State} (h : s.InFrame) :
    ∃ x, (s.clk, s.dio) = (.driven .low, .driven x) := by
  obtain ⟨-, -, hclk, hdio | hdio⟩ := h
  · exact ⟨.low, by rw [hclk, hdio]⟩
  · exact ⟨.high, by rw [hclk, hdio]⟩

/-- A frame leads from the idle bus to the idle bus, XST = IDLE again. -/
theorem frameScript_leads_resting {s : State} (h : s.BusIdle) (bs : List Byte) :
    ∃ w, microsLead (s.clk, s.dio) (scriptMicros (frameScript s.bitOrder bs)) = some w ∧
      ∀ evs, (s.afterScript (frameScript s.bitOrder bs) w evs).Resting := by
  obtain ⟨hlink, -, hclk, hdio⟩ := h
  refine ⟨(.driven .high, .driven .high), ?_, fun evs => .inr (.inl ⟨?_, ?_, rfl, rfl⟩)⟩
  · rw [hclk, hdio]
    exact frameScript_leads s.bitOrder bs
  · exact ((frameScript_isTraffic s.bitOrder bs).linkAfter s.link).trans hlink
  · exact frameScript_xstAfter s.bitOrder bs s.xst

/-- From a resting state the script of a command it runs leads to a resting state. -/
theorem commandScript_leads {i : Instr} {s : State} (hrest : s.Resting) (hruns : Runs i s)
    (hopen : i ≠ .openLink) :
    ∃ w, microsLead (s.clk, s.dio) (scriptMicros (commandScript s i)) = some w ∧
      ∀ evs, (s.afterScript (commandScript s i) w evs).Resting := by
  have hlink := hruns.opened hopen
  have hkeep : ∀ sc, Script.IsTraffic sc → Script.linkAfter sc s.link = .opened := fun sc hsc => by
    rw [hsc.linkAfter, hlink]
  cases i with
  | openLink => exact absurd rfl hopen
  | closeLink =>
    obtain ⟨hclk, hdio⟩ := claimed_of_opened hrest hlink
    exact ⟨_, closeScript_leads hclk hdio, fun _ => .inl ⟨nofun, rfl, rfl, rfl⟩⟩
  | start =>
    obtain ⟨-, -, hclk, hdio⟩ := busIdle_of_idle hrest hlink (hruns.idle (.inl rfl))
    rw [hclk, hdio]
    exact ⟨_, startScript_leads, fun _ => .inr (.inr (.inl ⟨hlink, rfl, rfl, .inl rfl⟩))⟩
  | writeByte b =>
    obtain ⟨x, hlines⟩ := lines_of_inFrame (inFrame_of_inframe hrest hruns.inframe)
    rw [hlines]
    refine ⟨_, sendByteScript_leads s.bitOrder b x, fun _ => .inr (.inr (.inl ⟨hkeep _
      (sendByteScript_isTraffic s.bitOrder b), hruns.inframe, rfl, ?_⟩))⟩
    cases levelOf (bitAt s.bitOrder b 7) with
    | low => exact .inl rfl
    | high => exact .inr rfl
  | stop =>
    cases hx : s.xst with
    | idle => exact absurd hx hruns.stop_xst
    | inframe =>
      obtain ⟨x, hlines⟩ := lines_of_inFrame (inFrame_of_inframe hrest hx)
      rw [hlines, commandScript, hx]
      exact ⟨_, stopScript_leads x, fun _ => .inr (.inl ⟨hlink, rfl, rfl, rfl⟩)⟩
    | aborted =>
      obtain ⟨-, -, hclk, hdio⟩ := busAborted_of_aborted hrest hx
      rw [hclk, hdio, commandScript, hx]
      exact ⟨_, recoverScript_leads, fun _ => .inr (.inl ⟨hlink, rfl, rfl, rfl⟩)⟩
  | writeCmd | writeRegBuf | setBrightness =>
    exact frameScript_leads_resting (busIdle_of_idle hrest hlink (hruns.idle (.inr rfl))) _

/-! ### What the events of a command count -/

/-- The payload of an admitted WRITE_REG_BUF has LEN bytes. -/
theorem payload_length {s : State} {n : Byte} (h : n.toNat ≤ 16) :
    (s.txbuf.toList.take n.toNat).length = n.toNat := by
  simp [h]

/-- The line operations of a command are as many as R116 counts. -/
theorem lineOps_commandEvents {i : Instr} {s : State} (hruns : Runs i s) :
    lineOps (commandEvents s i) = commandLineOps s i := by
  cases i with
  | openLink | closeLink | start => rfl
  | writeByte b => exact sendByteEvents_lineOps _ b _
  | stop => rw [commandEvents, commandLineOps]; split <;> rfl
  | writeCmd | setBrightness => exact frameEvents_lineOps _ _ _
  | writeRegBuf r n =>
    rw [commandEvents, frameEvents_lineOps, List.length_cons, payload_length hruns.payload_le,
      commandLineOps]
    omega

/-- A command samples at most 17 acknowledges (R26, R130). -/
theorem sampledAcks_commandEvents_le {i : Instr} {s : State} (hruns : Runs i s) :
    (sampledAcks (commandEvents s i)).length ≤ 17 := by
  cases i with
  | openLink | closeLink | start => exact Nat.zero_le 17
  | writeByte b =>
    rw [commandEvents, sendByteEvents_acks]
    simp
  | stop =>
    rw [commandEvents]
    split <;> exact Nat.zero_le 17
  | writeCmd | setBrightness =>
    rw [commandEvents, frameEvents_acks]
    simp
  | writeRegBuf r n =>
    have := hruns.payload_le
    rw [commandEvents, frameEvents_acks, List.length_map, List.length_range, List.length_cons,
      payload_length hruns.payload_le]
    omega

/-! ### The end of a command, no reset being pending -/

section Ends

variable {i : Instr} {s : State} (hrest : s.Resting) (hruns : Runs i s) (hopen : i ≠ .openLink)
  (hr : s.resetPending = false)
include hrest hruns hopen hr

/-- With no failure a command other than OPEN ends with the effect of its script. -/
theorem exec_of_opsSucceed (hops : s.OpsSucceed (commandLineOps s i)) :
    ∃ w, exec i s = .next (s.afterScript (commandScript s i) w (commandEvents s i)) ∧
      (s.afterScript (commandScript s i) w (commandEvents s i)).Resting := by
  obtain ⟨w, hlead, hresting⟩ := commandScript_leads hrest hruns hopen
  refine ⟨w, ?_, hresting _⟩
  rw [exec_eq_perform hruns.1 hopen hruns.2]
  refine perform_of_opsSucceed hr (commandScript_noClaim s hopen) hlead (commandScript_events s i) ?_
  rwa [lineOps_commandEvents hruns]

/-- With a failure among its line operations a command other than OPEN is aborted (R145). -/
theorem exec_of_not_opsSucceed (hops : ¬ s.OpsSucceed (commandLineOps s i)) :
    ∃ pre e rest, commandEvents s i = pre ++ e :: rest ∧ e.isLineOp = true ∧
      s.OpsSucceed (lineOps pre) ∧ s.opAnswer (lineOps pre) = false ∧
      exec i s = .next (s.afterAbort (pre ++ [e.failedForm])
        (s.draws.used 0 (lineOps pre + 1) (sampledAcks pre).length)) := by
  have hclose : i ≠ .closeLink := by
    rintro rfl
    exact hops fun k hk => absurd hk (Nat.not_lt_zero k)
  obtain ⟨w, hlead, -⟩ := commandScript_leads hrest hruns hopen
  obtain ⟨hclk, hdio⟩ := claimed_of_opened hrest (hruns.opened hopen)
  rw [exec_eq_perform hruns.1 hopen hruns.2]
  refine perform_of_not_opsSucceed hr (commandScript_isTraffic s hopen hclose) hlead hclk hdio
    (commandScript_events s i) ?_
  rwa [lineOps_commandEvents hruns]

end Ends

/-! ### The ends of OPEN -/

/-- The state of an OPEN that succeeds from released lines (R92). -/
def State.openSucceeded (s : State) : State :=
  { s with
    clk := .driven .high
    dio := .driven .high
    link := .opened
    xst := .idle
    sequencer := none
    err := .ok
    ackcnt := 0
    ackv := 0
    trace := s.trace ++ openEvents
    draws := s.draws.used 2 2 0 }

section Open

variable {s : State} (hlines : s.LinesReleased)
include hlines

theorem openEnded_ok_eq_openSucceeded :
    ({ s.openEnded .ok openEvents 2 2 with link := .opened, xst := .idle } : State) =
      s.openSucceeded := by
  obtain ⟨-, -, hclk, hdio⟩ := hlines
  rw [State.openEnded, hclk, hdio]
  rfl

/-- A failed OPEN leaves released lines released (R92). -/
theorem openEnded_eq_openFailed {evs : List LineEvent} (hevs : evs ∈ openFailures) (c o : Nat) :
    s.openEnded .configurationError evs c o = s.openFailed evs c o := by
  obtain ⟨-, -, hclk, hdio⟩ := hlines
  have hfold : ∀ evs ∈ openFailures,
      evs.foldl applyEvent (.released, .released) = (.released, .released) := by decide
  rw [State.openEnded, hclk, hdio, hfold evs hevs, State.openFailed, hclk, hdio]

variable (hr : s.resetPending = false)
include hr

/-- OPEN succeeds, or fails at one of its claims or direction sets and leaves nothing claimed (R92). -/
theorem performOpen_of_linesReleased :
    performOpen s = .next s.openSucceeded ∨
      ∃ evs ∈ openFailures, ∃ c o, performOpen s = .next (s.openFailed evs c o) := by
  obtain ⟨hclaimed, -⟩ | hend | ⟨evs, hevs, c, o, hend⟩ := performOpen_cases hr
  · obtain ⟨-, -, hclk, hdio⟩ := hlines
    rw [hclk, hdio] at hclaimed
    obtain h | h := hclaimed <;> cases h
  · rw [hend, openEnded_ok_eq_openSucceeded hlines]
    exact .inl rfl
  · exact .inr ⟨evs, hevs, c, o, by rw [hend, openEnded_eq_openFailed hlines hevs]⟩

end Open

theorem linesReleased_of_runs_open {s : State} (hrest : s.Resting) (hruns : Runs .openLink s) :
    s.LinesReleased :=
  linesReleased_of_not_opened hrest (by rw [hruns.unopened]; decide)

end Sys2Proof.Machine
end

section
/-! PROOFS. What each command does (40_lines.md R92, R93, 41_transport.md R106 to R114, 42_protocol.md R126 to
R129) and how line failures end it (60_exceptions.md R145, R147). -/

namespace Sys2Proof.Machine

/-! ### OPEN and CLOSE -/

theorem exec_openLink_of_unopened {s : State} (h : s.link = .unopened) :
    exec .openLink s = performOpen s :=
  exec_openLink_of_runs ⟨by simp [admission, h], nofun⟩

/-- Settles O20. -/
theorem openClaimsLines : Obligations.OpenClaimsLines := by
  intro s hlines hlink hr h0 h1 hops
  have hclk : s.clk.claimed = false := by rw [hlines.2.2.1]; rfl
  have hdio : s.dio.claimed = false := by rw [hlines.2.2.2]; rfl
  rw [exec_openLink_of_unopened hlink, performOpen_of_all_succeed hr hclk h0 hdio h1
    (hops 0 (by decide)) (hops 1 (by decide)), openEnded_ok_eq_openSucceeded hlines]
  rfl

/-- Settles O21: each failure ends with its releases, which leave the lines as they were. -/
theorem openFailureLeavesNothingClaimed : Obligations.OpenFailureLeavesNothingClaimed := by
  intro s hlines hlink hr
  have hclk : s.clk.claimed = false := by rw [hlines.2.2.1]; rfl
  have hdio : s.dio.claimed = false := by rw [hlines.2.2.2]; rfl
  have hsame : ∀ evs ∈ openFailures, ∀ c o, s.openEnded .configurationError evs c o =
      s.openFailed evs c o := fun evs hevs c o => openEnded_eq_openFailed hlines hevs c o
  rw [exec_openLink_of_unopened hlink]
  refine ⟨fun h0 => ?_, fun h0 h1 => ?_, fun h0 h1 h2 => ?_, fun h0 h1 h2 h3 => ?_⟩
  · rw [performOpen_of_claim_clk_fails hr hclk h0, hsame _ (by decide)]
  · rw [performOpen_of_claim_dio_fails hr hclk h0 hdio h1, hsame _ (by decide)]
  · rw [performOpen_of_dir_clk_fails hr hclk h0 hdio h1 h2, hsame _ (by decide)]
  · rw [performOpen_of_dir_dio_fails hr hclk h0 hdio h1 h2 h3, hsame _ (by decide)]

/-- Settles O23: the script of CLOSE has no line operation, so it cannot fail. -/
theorem closeReleasesLines : Obligations.CloseReleasesLines := by
  intro s hlink hclk hdio hr
  rw [exec_closeLink_of_opened hlink, perform_of_opsSucceed hr (by decide) (closeScript_leads hclk hdio) rfl
    fun k hk => absurd hk (Nat.not_lt_zero k)]
  simp [State.afterScript, closeScript, Script.linkAfter, Script.xstAfter, Item.linkAfter, Item.xstAfter,
    microEvents, scriptMicros, okEvent, sampledAcks, ackSum, LineEvent.isLineOp]

/-! ### START, WRITE_BYTE and STOP -/

section OneScript

variable {s : State} (hr : s.resetPending = false)
include hr

/-- A command of bus traffic that leads to the wires `w` and XST = `x`, all its line operations
succeeding. -/
theorem perform_traffic {sc : Script} {w : Wires} {x : Xst} {evs : List LineEvent}
    (htraffic : Script.IsTraffic sc) (hlead : microsLead (s.clk, s.dio) (scriptMicros sc) = some w)
    (hx : Script.xstAfter sc s.xst = x) (hevs : microEvents (scriptMicros sc) s.levelAnswer = evs)
    (hops : s.OpsSucceed (lineOps evs)) :
    perform sc s = .next
      { s with
        clk := w.1
        dio := w.2
        xst := x
        sequencer := none
        err := .ok
        ackcnt := (sampledAcks evs).length
        ackv := BitVec.ofNat 32 (ackSum (sampledAcks evs))
        trace := s.trace ++ evs
        draws := s.draws.used 0 (lineOps evs) (sampledAcks evs).length } := by
  rw [perform_of_opsSucceed hr htraffic.noClaim hlead hevs hops, State.afterScript, htraffic.linkAfter, hx]

end OneScript

/-- Settles O25. -/
theorem startOpensTransaction : Obligations.StartOpensTransaction := by
  intro s ⟨hlink, hxst, hclk, hdio⟩ hr hops
  have hlead : microsLead (s.clk, s.dio) (scriptMicros startScript) = some (.driven .low, .driven .low) := by
    rw [hclk, hdio]
    rfl
  have hrun : exec .start s = perform startScript s :=
    exec_of_admitted (by simp [admission, admission.inLink, hlink, hxst]) nofun
  rw [hrun, perform_traffic hr (by decide) hlead rfl rfl hops]
  rfl

/-- The result of WRITE_BYTE is its one acknowledge (R110). -/
theorem ackSum_singleton (v : Level) :
    BitVec.ofNat 32 (ackSum [ackOf v]) = if v = .low then 1 else 0 := by
  cases v <;> rfl

/-- Settles O26. -/
theorem writeByteSendsByte : Obligations.WriteByteSendsByte := by
  intro s b hframe hr hops
  obtain ⟨x, hlines⟩ := lines_of_inFrame hframe
  obtain ⟨hlink, hxst, -, -⟩ := hframe
  have hlead : microsLead (s.clk, s.dio) (scriptMicros (sendByteScript s.bitOrder b)) =
      some (.driven .low, .driven (levelOf (bitAt s.bitOrder b 7))) := by
    rw [hlines]
    exact sendByteScript_leads s.bitOrder b x
  have hrun : exec (.writeByte b) s = perform (sendByteScript s.bitOrder b) s :=
    exec_of_admitted (by simp [admission, admission.inLink, hlink, hxst]) nofun
  rw [hrun, perform_traffic hr (sendByteScript_isTraffic _ b) hlead rfl (sendByteScript_events _ b _) hops,
    sendByteEvents_acks, sendByteEvents_lineOps, ackSum_singleton]
  rfl

/-- Settles O27. -/
theorem stopClosesTransaction : Obligations.StopClosesTransaction := by
  intro s hframe hr hops
  obtain ⟨x, hlines⟩ := lines_of_inFrame hframe
  obtain ⟨hlink, hxst, -, -⟩ := hframe
  have hlead : microsLead (s.clk, s.dio) (scriptMicros stopScript) =
      some (.driven .high, .driven .high) := by
    rw [hlines]
    exact stopScript_leads x
  have hrun : exec .stop s = perform stopScript s := by
    rw [exec_of_admitted (i := .stop) (by simp [admission, admission.inLink, hlink, hxst]) nofun,
      scriptRun, hxst]
    rfl
  rw [hrun, perform_traffic hr (by decide) hlead rfl rfl hops]
  rfl

/-- STOP when ABORTED is the recovery stop (R114). -/
theorem exec_stop_of_aborted {s : State} (h : s.BusAborted) : exec .stop s = perform recoverScript s := by
  obtain ⟨hlink, hxst, -, -⟩ := h
  rw [exec_of_admitted (i := .stop) (by simp [admission, admission.inLink, hlink, hxst]) nofun,
    scriptRun, hxst]
  rfl

/-- Settles O28. -/
theorem recoveryStopRestoresIdleBus : Obligations.RecoveryStopRestoresIdleBus := by
  intro s haborted hr hops
  have hlead : microsLead (s.clk, s.dio) (scriptMicros recoverScript) =
      some (.driven .high, .driven .high) := by
    rw [haborted.2.2.1, haborted.2.2.2]
    exact recoverScript_leads
  rw [exec_stop_of_aborted haborted, perform_traffic hr (by decide) hlead rfl rfl hops]
  rfl

/-! ### The framed commands -/

/-- A frame from the idle bus (R126). -/
theorem perform_frameScript {s : State} (h : s.BusIdle) (hr : s.resetPending = false) (bs : List Byte)
    (hops : s.OpsSucceed (5 + 29 * bs.length)) :
    perform (frameScript s.bitOrder bs) s = .next (s.afterFrame bs) := by
  obtain ⟨-, -, hclk, hdio⟩ := h
  have hlead : microsLead (s.clk, s.dio) (scriptMicros (frameScript s.bitOrder bs)) =
      some (.driven .high, .driven .high) := by
    rw [hclk, hdio]
    exact frameScript_leads s.bitOrder bs
  have hacks : sampledAcks (frameEvents s.bitOrder bs s.levelAnswer) = s.acksFromNow bs.length :=
    frameEvents_acks s.bitOrder bs s.levelAnswer
  have hlen : (s.acksFromNow bs.length).length = bs.length := by simp [State.acksFromNow]
  rw [perform_traffic hr (frameScript_isTraffic _ bs) hlead (frameScript_xstAfter _ bs _)
    (frameScript_events _ bs _) (by rwa [frameEvents_lineOps]), hacks, hlen, frameEvents_lineOps,
    State.afterFrame]

/-- A framed command is admitted on the idle bus when its operand is in range (R142). -/
theorem exec_writeCmd_of_busIdle {s : State} (h : s.BusIdle) (c : Byte) :
    exec (.writeCmd c) s = perform (frameScript s.bitOrder [c]) s := by
  obtain ⟨hlink, hxst, -, -⟩ := h
  exact exec_of_admitted (by simp [admission, admission.inLink, hlink, hxst]) nofun

theorem exec_writeRegBuf_of_busIdle {s : State} (h : s.BusIdle) (r : Byte) {n : Byte}
    (hn : n.toNat ≤ s.params.maxPayload.val) :
    exec (.writeRegBuf r n) s = perform (frameScript s.bitOrder (regBufBytes s r n)) s := by
  obtain ⟨hlink, hxst, -, -⟩ := h
  exact exec_of_admitted (by simp [admission, admission.inLink, hlink, hxst, hn]) nofun

theorem exec_setBrightness_of_busIdle {s : State} (h : s.BusIdle) {l : Byte}
    (hl : l ≤ s.params.brightnessMax) :
    exec (.setBrightness l) s = perform (frameScript s.bitOrder (brightnessBytes s.params l)) s := by
  obtain ⟨hlink, hxst, -, -⟩ := h
  exact exec_of_admitted (by simp [admission, admission.inLink, hlink, hxst, BitVec.not_lt.mpr hl]) nofun

/-- Settles O30. -/
theorem writeCmdSendsFrame : Obligations.WriteCmdSendsFrame := by
  intro s c hidle hr hops
  rw [exec_writeCmd_of_busIdle hidle, perform_frameScript hidle hr [c] hops]

theorem payload_length_of_le_maxPayload {s : State} {n : Byte} (hn : n.toNat ≤ s.params.maxPayload.val) :
    (s.txbuf.toList.take n.toNat).length = n.toNat :=
  payload_length (by have := s.params.maxPayload.isLt; omega)

/-- Settles O31. -/
theorem writeRegBufSendsFrame : Obligations.WriteRegBufSendsFrame := by
  intro s r n hidle hr hn hops
  have hlen := payload_length_of_le_maxPayload hn
  refine ⟨?_, hlen⟩
  rw [exec_writeRegBuf_of_busIdle hidle r hn, regBufBytes, payload, addressByte,
    perform_frameScript hidle hr _ (by rwa [List.length_cons, hlen, Nat.mul_succ, ← Nat.add_assoc,
      Nat.add_right_comm])]

/-- Settles O32. -/
theorem setBrightnessSendsFrame : Obligations.SetBrightnessSendsFrame := by
  intro s l hidle hr hl hops
  rw [exec_setBrightness_of_busIdle hidle hl, brightnessBytes,
    perform_frameScript hidle hr [s.params.brightnessCmd, s.params.brightnessCmd ||| l] hops]

/-! ### Line failures -/

/-- The cells of R142 that say "run" are the commands with a script to run. -/
theorem runs_of_admissionCell {i : Instr} {s : State} (h : admissionCell s.params i (columnOf s) = .run) :
    Runs i s := by
  obtain ⟨-, hok, hclose⟩ | ⟨hcell, -, -⟩ | ⟨hcell, -⟩ := admissionCell_cases i s
  · exact ⟨hok, hclose⟩
  · cases hcell.symm.trans h
  · cases hcell.symm.trans h

/-- Settles O33. -/
theorem lineFailureAborts : Obligations.LineFailureAborts := by
  rintro i s ⟨hrest, -, -⟩ hr hopen hcell hops
  exact exec_of_not_opsSucceed hrest (runs_of_admissionCell hcell) hopen hr hops

/-- The acknowledges sampled before a failure are among those of the whole command (R145). -/
theorem sampledAcks_length_le_of_split {evs pre rest : List LineEvent} {e : LineEvent}
    (h : evs = pre ++ e :: rest) (he : e.isLineOp = true) :
    (sampledAcks (pre ++ [e.failedForm])).length ≤ (sampledAcks evs).length := by
  rw [sampledAcks_append_failedForm pre e he, h, sampledAcks_append, List.length_append]
  exact Nat.le_add_right _ _

/-- A state whose result registers report at most 17 acknowledges (R26). -/
theorem resultOk_of_acks {s : State} {acks : List Bool} (hcnt : s.ackcnt = acks.length)
    (hv : s.ackv = BitVec.ofNat 32 (ackSum acks)) (h : acks.length ≤ 17) : s.ResultOk := by
  have := finish_resultOk s.err acks s h
  rwa [State.ResultOk, finish_ackcnt, finish_ackv, ← hcnt, ← hv] at this

/-- After an abort with LINK = OPEN the state is resting (R25, R145). -/
theorem afterAbort_inv {s : State} (hlink : s.link = .opened) {evs : List LineEvent}
    (hacks : (sampledAcks evs).length ≤ 17) (d : Draws) : (s.afterAbort evs d).Inv :=
  ⟨.inr (.inr (.inr ⟨hlink, rfl, rfl, rfl⟩)), rfl, resultOk_of_acks rfl rfl hacks⟩

/-- Settles O29: the recovery stop samples nothing, so its abort reports no acknowledge. -/
theorem failedRecoveryStaysAborted : Obligations.FailedRecoveryStaysAborted := by
  rintro s ⟨hrest, -, -⟩ haborted hr hops
  obtain ⟨hlink, hxst, -, -⟩ := haborted
  have hruns : Runs .stop s := ⟨by simp [admission, admission.inLink, hlink, hxst], nofun⟩
  obtain ⟨pre, e, rest, hsplit, he, -, -, hexec⟩ :=
    exec_of_not_opsSucceed hrest hruns (by simp) hr (by rwa [commandLineOps, if_pos hxst])
  have hacks := sampledAcks_length_le_of_split hsplit he
  have hnone : (sampledAcks (commandEvents s .stop)).length = 0 := by
    rw [commandEvents, if_pos hxst]
    rfl
  refine ⟨_, hexec, ⟨hlink, rfl, rfl, rfl⟩, afterAbort_inv hlink (by omega) _, rfl, ?_, ?_⟩
  · change (sampledAcks (pre ++ [e.failedForm])).length = 0
    omega
  · simp [admission, admission.inLink, State.afterAbort, hlink]

/-! ### Commands without a failure -/

theorem bytesEvents_not_failed (order : BitOrder) (bs : List Byte) (levels : Nat → Level) :
    ∀ x ∈ bytesEvents order bs levels, x.failed = false := by
  induction bs generalizing levels with
  | nil => simp [bytesEvents]
  | cons b bs ih =>
    refine List.forall_mem_append.mpr ⟨?_, ih _⟩
    simp [sendByteEvents, bitSlots, bitEvents, ackEvents, LineEvent.failed]

/-- No event of a command that succeeds is a failed one. -/
theorem commandEvents_not_failed (s : State) (i : Instr) :
    ∀ x ∈ commandEvents s i, x.failed = false := by
  have hframe : ∀ bs levels, ∀ x ∈ frameEvents s.bitOrder bs levels, x.failed = false := by
    intro bs levels
    refine List.forall_mem_append.mpr ⟨List.forall_mem_append.mpr
      ⟨by decide, bytesEvents_not_failed s.bitOrder bs levels⟩, by decide⟩
  cases i with
  | openLink => exact (by decide : ∀ x ∈ openEvents, x.failed = false)
  | closeLink => exact (by decide : ∀ x ∈ closeEvents, x.failed = false)
  | start => exact (by decide : ∀ x ∈ startEvents, x.failed = false)
  | writeByte b =>
    have := bytesEvents_not_failed s.bitOrder [b] s.levelAnswer
    rwa [bytesEvents, bytesEvents, List.append_nil] at this
  | stop =>
    rw [commandEvents]
    split <;> decide
  | writeCmd | writeRegBuf | setBrightness => exact hframe _ _

/-- The micro-operations of a command are as many as R116 counts. -/
theorem length_commandEvents {i : Instr} {s : State} (hruns : Runs i s) :
    (commandEvents s i).length = commandLength s i := by
  cases i with
  | openLink | closeLink | start => rfl
  | writeByte b => exact sendByteEvents_length _ b _
  | stop => rw [commandEvents, commandLength]; split <;> rfl
  | writeCmd | setBrightness => exact frameEvents_length _ _ _
  | writeRegBuf r n =>
    rw [commandEvents, frameEvents_length, List.length_cons, payload_length hruns.payload_le, commandLength]
    omega

/-- The HOLDs of a command are as many as R116 and R178 count. -/
theorem holds_commandEvents {i : Instr} {s : State} (hruns : Runs i s) :
    (commandEvents s i).count .hold = commandHolds s i := by
  cases i with
  | openLink | closeLink | start => rfl
  | writeByte b => exact sendByteEvents_holds _ b _
  | stop => rw [commandEvents, commandHolds]; split <;> rfl
  | writeCmd | setBrightness => exact frameEvents_holds _ _ _
  | writeRegBuf r n =>
    rw [commandEvents, frameEvents_holds, List.length_cons, payload_length hruns.payload_le, commandHolds]
    omega

/-- Settles O34: OPEN by its own ends, every other command by its script. -/
theorem successfulCommandLength : Obligations.SuccessfulCommandLength := by
  rintro i s ⟨hrest, -, -⟩ hr hcell hops hclaims
  have hruns := runs_of_admissionCell hcell
  refine ⟨?_, commandEvents_not_failed s i, length_commandEvents hruns, ?_⟩
  · by_cases hopen : i = .openLink
    · subst hopen
      obtain ⟨h0, h1⟩ := hclaims rfl
      exact ⟨_, openClaimsLines s (linesReleased_of_runs_open hrest hruns) hruns.unopened hr h0 h1 hops,
        rfl, rfl⟩
    · obtain ⟨w, hexec, -⟩ := exec_of_opsSucceed hrest hruns hopen hr hops
      exact ⟨_, hexec, rfl, rfl⟩
  · rw [leastDuration, holds_commandEvents hruns, holdFloor]

end Sys2Proof.Machine
end

section
/-! PROOFS. What every command and every step keeps: the resting table and the bounds of the result
(10_state.md R24 to R26), the parameters and the trace, CLOSED (R22), and the frame of a command. -/

namespace Sys2Proof.Machine

/-! ### Every command ends in a resting state -/

theorem openSucceeded_inv (s : State) : s.openSucceeded.Inv :=
  ⟨.inr (.inl ⟨rfl, rfl, rfl, rfl⟩), rfl, resultOk_of_acks (acks := []) rfl rfl (Nat.zero_le 17)⟩

theorem openFailed_inv {s : State} (h : s.LinesReleased) (evs : List LineEvent) (c o : Nat) :
    (s.openFailed evs c o).Inv :=
  ⟨.inl h, rfl, resultOk_of_acks (acks := []) rfl rfl (Nat.zero_le 17)⟩

/-- Rejecting a command keeps the invariant (R144). -/
theorem rejected_inv {s : State} (h : s.Inv) (code : ResultCode) : (s.rejected code).Inv :=
  ⟨h.1, h.2.1, resultOk_of_acks (acks := []) rfl rfl (Nat.zero_le 17)⟩

theorem afterScript_inv {i : Instr} {s : State} {w : Wires} (hruns : Runs i s)
    (h : (s.afterScript (commandScript s i) w (commandEvents s i)).Resting) :
    (s.afterScript (commandScript s i) w (commandEvents s i)).Inv :=
  ⟨h, rfl, resultOk_of_acks rfl rfl (sampledAcks_commandEvents_le hruns)⟩

/-- Without a pending reset every command ends in a resting state. -/
theorem exec_inv_of_not_pending (i : Instr) {s : State} (hinv : s.Inv) (hr : s.resetPending = false) :
    ∃ t, exec i s = .next t ∧ t.Inv := by
  have hrest := hinv.1
  by_cases hruns : Runs i s
  case neg => exact ⟨_, exec_of_not_runs hruns, rejected_inv hinv _⟩
  by_cases hopen : i = .openLink
  · subst hopen
    have hlines := linesReleased_of_runs_open hrest hruns
    rw [exec_openLink_of_runs hruns]
    obtain hend | ⟨evs, -, c, o, hend⟩ := performOpen_of_linesReleased hlines hr
    · exact ⟨_, hend, openSucceeded_inv s⟩
    · exact ⟨_, hend, openFailed_inv hlines evs c o⟩
  · by_cases hops : s.OpsSucceed (commandLineOps s i)
    · obtain ⟨w, hexec, hresting⟩ := exec_of_opsSucceed hrest hruns hopen hr hops
      exact ⟨_, hexec, afterScript_inv hruns hresting⟩
    · obtain ⟨pre, e, rest, hsplit, he, -, -, hexec⟩ := exec_of_not_opsSucceed hrest hruns hopen hr hops
      have hacks := (sampledAcks_length_le_of_split hsplit he).trans (sampledAcks_commandEvents_le hruns)
      exact ⟨_, hexec, afterAbort_inv (hruns.opened hopen) hacks _⟩

/-- How a command ends under a pending reset: cut by it, or as it ends without it (R166). -/
theorem exec_of_reset {i : Instr} {s t : State} {n : Nat} {rest : List HostInput}
    (hin : s.inputs = .reset n :: rest) (h : exec i { s with inputs := [] } = .next t) :
    ∃ evs, t.trace = s.trace ++ evs ∧
      ((∃ d, exec i s = .next (s.cutAfter (evs.take n) d rest)) ∨
        exec i s = .next { t with inputs := .reset n :: rest }) := by
  obtain ⟨evs, k⟩ := exec_commandInterruption (s := { s with inputs := [] }) rfl h
  refine ⟨evs, k.trace, ?_⟩
  by_cases hn : n < evs.length
  · exact .inl (resetCutsCommand i s t n rest evs hin h k.trace hn)
  · exact .inr (lateResetLeavesCommand i s t n rest evs hin h k.trace (Nat.le_of_not_lt hn))

theorem cutAfter_inv (s : State) (evs : List LineEvent) (d : Draws) (rest : List HostInput) :
    (s.cutAfter evs d rest).Inv :=
  ⟨.inl ⟨nofun, rfl, rfl, rfl⟩, rfl, resultOk_of_acks (acks := []) rfl rfl (Nat.zero_le 17)⟩

/-- A state either has a reset in front of its pending inputs or has none pending. -/
theorem resetPending_cases (s : State) :
    s.resetPending = false ∨ ∃ n rest, s.inputs = .reset n :: rest := by
  rw [State.resetPending]
  cases s.inputs with
  | nil => exact .inl rfl
  | cons input rest =>
    cases input with
    | access a => exact .inl rfl
    | reset n => exact .inr ⟨n, rest, rfl⟩

/-- Settles O15: without a pending reset by how the command ends, and a reset either cuts it into the reset
state or leaves it as it is. -/
theorem everyCommandEnds : Obligations.EveryCommandEnds := by
  intro i s hinv
  obtain hr | ⟨n, rest, hin⟩ := resetPending_cases s
  · exact exec_inv_of_not_pending i hinv hr
  · obtain ⟨t, hexec, ht⟩ := exec_inv_of_not_pending i (s := { s with inputs := [] }) hinv rfl
    obtain ⟨evs, -, ⟨d, hend⟩ | hend⟩ := exec_of_reset hin hexec
    · exact ⟨_, hend, cutAfter_inv s _ d rest⟩
    · exact ⟨_, hend, ht⟩

/-! ### What a step can do -/

/-- The state after a register access: CONFIG, TXBUF and what the host has read, the input taken. -/
def State.afterAccess (s : State) (order : BitOrder) (hold : BitVec 16) (txbuf : Vector Byte 16)
    (read : Option Word) : State :=
  { s.dropInput with bitOrder := order, hold := hold, txbuf := txbuf, hostRead := read }

/-- What serving an access can ask for. -/
theorem serveAccess_cases (a : Access) (s : State) :
    (∃ r, serveAccess a s = .refused r) ∨
    (∃ o h b r, serveAccess a s =
      .served { s with bitOrder := o, hold := h, txbuf := b, hostRead := r }) ∨
    ∃ w, serveAccess a s = .command w s := by
  cases a with
  | read width offset =>
    cases h : accessRefusal width offset with
    | some r => exact .inl ⟨r, by simp [serveAccess, h]⟩
    | none =>
      exact .inr (.inl ⟨s.bitOrder, s.hold, s.txbuf, _, by simp only [serveAccess, h]; rfl⟩)
  | write width offset v =>
    cases h : accessRefusal width offset with
    | some r => exact .inl ⟨r, by simp [serveAccess, h]⟩
    | none =>
      obtain ⟨o, hold, b, hwrite⟩ := writeReg_frame (regAt offset.toNat) v s
      by_cases hcmd : regAt offset.toNat = some .cmd
      · exact .inr (.inr ⟨v, by simp only [serveAccess, h, hcmd]⟩)
      · refine .inr (.inl ⟨o, hold, b, s.hostRead, ?_⟩)
        simp only [serveAccess, h]
        rw [← hwrite]

/-- All a step can do: wait, take a reset, refuse an access, serve a register access, run a command, or
reject an illegal word. -/
theorem step_cases (s : State) :
    step s = .next s ∨
    (∃ n rest, s.inputs = .reset n :: rest ∧ step s = .next (takeReset s.dropInput)) ∨
    (∃ r, step s = .refused r) ∨
    (∃ o h b r, step s = .next (s.afterAccess o h b r)) ∨
    (∃ i, step s = exec i s.dropInput) ∨
    step s = .next (s.dropInput.rejected .illegalCommand) := by
  cases hin : s.inputs with
  | nil => exact .inl (by simp [step, nextRequest, hin])
  | cons input rest =>
    cases input with
    | reset n => exact .inr (.inl ⟨n, rest, rfl, by simp [step, nextRequest, hin]⟩)
    | access a =>
      have hreq : nextRequest s = serveAccess a s.dropInput := by simp only [nextRequest, hin]
      obtain ⟨r, h⟩ | ⟨o, hold, b, r, h⟩ | ⟨w, h⟩ := serveAccess_cases a s.dropInput
      · exact .inr (.inr (.inl ⟨r, by simp only [step, hreq, h]⟩))
      · exact .inr (.inr (.inr (.inl ⟨o, hold, b, r, by simp only [step, hreq, h]; rfl⟩)))
      · cases hw : decode w with
        | command i => exact .inr (.inr (.inr (.inr (.inl ⟨i, by simp only [step, hreq, h, hw]⟩))))
        | illegal why =>
          exact .inr (.inr (.inr (.inr (.inr (by simp only [step, hreq, h, hw, endIllegal, finish_nil])))))

/-- Settles O14: whatever a step does keeps the invariant, a command because it ends in a resting state. -/
theorem stepKeepsInvariant : Obligations.StepKeepsInvariant := by
  intro s t hinv hstep
  obtain h | ⟨n, rest, -, h⟩ | ⟨r, h⟩ | ⟨o, hold, b, r, h⟩ | ⟨i, h⟩ | h := step_cases s
  · cases h.symm.trans hstep
    exact hinv
  · cases h.symm.trans hstep
    exact takeReset_inv _
  · cases h.symm.trans hstep
  · cases h.symm.trans hstep
    exact hinv
  · obtain ⟨t', hexec, ht'⟩ := everyCommandEnds i s.dropInput hinv
    cases (h.trans hexec).symm.trans hstep
    exact ht'
  · cases h.symm.trans hstep
    exact rejected_inv (s := s.dropInput) hinv _

/-- Settles O16: a step faults only if its command does, and from a resting state every command ends. -/
theorem noBadLineOp : Obligations.NoBadLineOp := by
  intro s hinv hstep
  obtain h | ⟨n, rest, -, h⟩ | ⟨r, h⟩ | ⟨o, hold, b, r, h⟩ | ⟨i, h⟩ | h := step_cases s
  case inr.inr.inr.inr.inl =>
    obtain ⟨t, hexec, -⟩ := everyCommandEnds i s.dropInput hinv
    cases (h.trans hexec).symm.trans hstep
  all_goals cases h.symm.trans hstep

/-- Settles O13. -/
theorem resetMeetsInvariant : Obligations.ResetMeetsInvariant := by
  have h : ∀ p : Params, (State.resetWith p).Inv := fun p =>
    ⟨.inl ⟨nofun, rfl, rfl, rfl⟩, rfl, resultOk_of_acks (acks := []) rfl rfl (Nat.zero_le 17)⟩
  exact ⟨h _, h⟩

/-! ### The parameters and the trace -/

/-- However a script ends, the parameters are kept. -/
theorem runScript_params {sc : Script} {s t : State} {acks : List Bool} {r : ScriptEnd}
    (hrun : runScript sc s acks = r) (ht : r.state? = some t) : t.params = s.params := by
  obtain ⟨u, evs, hend, hframe, -⟩ | ⟨u, evs, e, hend, hframe, -⟩ | ⟨u, evs, hend, hframe, -⟩ |
      hend :=
    hrun ▸ runScript_ends sc s acks <;>
    subst hend <;> cases ht
  · exact hframe.params
  · exact hframe.params
  · exact hframe.params

theorem runStages_params {stages : List (Script × Script)} {s t : State} {r : ScriptEnd}
    (hrun : runStages stages s = r) (ht : r.state? = some t) : t.params = s.params := by
  induction stages generalizing s with
  | nil =>
    subst hrun
    cases ht
    rfl
  | cons stage rest ih =>
    obtain ⟨sc, releases⟩ := stage
    rw [runStages_cons] at hrun
    cases hfirst : runScript sc s [] with
    | done u acks =>
      rw [hfirst] at hrun
      exact (ih hrun).trans (runScript_params hfirst rfl)
    | failed u acks =>
      rw [hfirst] at hrun
      refine Eq.trans ?_ (runScript_params hfirst rfl)
      cases hrel : runScript releases u [] with
      | done v acks' | failed v acks' | cut v =>
        simp only [runReleases, hrel] at hrun
        subst hrun
        cases ht
        exact runScript_params hrel rfl
      | bad =>
        simp only [runReleases, hrel] at hrun
        subst hrun
        cases ht
    | cut u =>
      rw [hfirst] at hrun
      exact runScript_params (hfirst.trans hrun) ht
    | bad =>
      rw [hfirst] at hrun
      exact runScript_params (hfirst.trans hrun) ht

/-- A command ends at the state of its run, with a result and, if it failed, aborted. -/
theorem commandEnd_params {i : Instr} {r : ScriptEnd} {t : State} (h : commandEnd i r = .next t) :
    ∃ u, r.state? = some u ∧ t.params = u.params := by
  cases r with
  | done u acks =>
    cases h
    exact ⟨u, rfl, rfl⟩
  | failed u acks =>
    cases h
    refine ⟨u, rfl, ?_⟩
    split <;> rfl
  | cut u =>
    cases h
    exact ⟨t, rfl, rfl⟩
  | bad => cases h

/-- No command changes a parameter, also when a reset cuts it (R9). -/
theorem exec_params {i : Instr} {s t : State} (h : exec i s = .next t) : t.params = s.params := by
  by_cases hruns : Runs i s
  · rw [exec_of_runs hruns] at h
    obtain ⟨u, hu, htu⟩ := commandEnd_params h
    rw [htu]
    by_cases hopen : i = .openLink
    · exact runStages_params (s := s.beginScript) (by rw [commandRun, if_pos hopen]) hu
    · exact runScript_params (s := s.beginScript) (by rw [commandRun, if_neg hopen]) hu
  · cases (exec_of_not_runs hruns).symm.trans h
    rfl

/-- Settles O8. -/
theorem stepExtendsTraceKeepsParams : Obligations.StepExtendsTraceKeepsParams := by
  intro s t hstep
  obtain h | ⟨n, rest, -, h⟩ | ⟨r, h⟩ | ⟨o, hold, b, r, h⟩ | ⟨i, h⟩ | h := step_cases s
  · cases h.symm.trans hstep
    exact ⟨rfl, [], (List.append_nil _).symm⟩
  · cases h.symm.trans hstep
    exact ⟨rfl, [.rst], rfl⟩
  · cases h.symm.trans hstep
  · cases h.symm.trans hstep
    exact ⟨rfl, [], (List.append_nil _).symm⟩
  · have hexec := h.symm.trans hstep
    obtain ⟨evs, htrace, -⟩ := exec_commandTrace hexec
    exact ⟨exec_params (s := s.dropInput) hexec, evs, htrace⟩
  · cases h.symm.trans hstep
    exact ⟨rfl, [], (List.append_nil _).symm⟩

/-! ### CLOSED -/

/-- With LINK = CLOSED no command has a script to run (R22). -/
theorem not_runs_of_closed {s : State} (h : s.link = .closed) (i : Instr) : ¬ Runs i s := by
  intro hruns
  by_cases hopen : i = .openLink
  · subst hopen
    cases h.symm.trans hruns.unopened
  · cases h.symm.trans (hruns.opened hopen)

/-- Settles O17: no command runs in CLOSED, so each only reports a result. -/
theorem closedUntilReset : Obligations.ClosedUntilReset := by
  intro s hclosed
  have hexec : ∀ i (u : State), u.link = .closed → exec i u = .next (u.rejected (admission i u)) :=
    fun i u hu => exec_of_not_runs (not_runs_of_closed hu i)
  refine ⟨fun t hstep => ?_, fun i hi => ?_⟩
  · obtain h | ⟨n, rest, hin, -⟩ | ⟨r, h⟩ | ⟨o, hold, b, r, h⟩ | ⟨i, h⟩ | h := step_cases s
    · cases h.symm.trans hstep
      exact .inl hclosed
    · exact .inr ⟨n, rest, hin⟩
    · cases h.symm.trans hstep
    · cases h.symm.trans hstep
      exact .inl hclosed
    · rw [hexec i s.dropInput hclosed] at h
      cases h.symm.trans hstep
      exact .inl hclosed
    · cases h.symm.trans hstep
      exact .inl hclosed
  · rw [hexec i s hclosed]
    cases i <;> simp [admission, admission.inLink, hclosed] at hi ⊢

/-- After CLOSE the link is not open: CLOSED, or UNOPENED after a reset, or as it was (R93). -/
theorem link_ne_opened_of_close {s t : State} (hinv : s.Inv) (h : exec .closeLink s = .next t) :
    t.link ≠ .opened := by
  by_cases hlink : s.link = .opened
  · obtain ⟨hclk, hdio⟩ := claimed_of_opened hinv.1 hlink
    obtain hr | ⟨n, rest, hin⟩ := resetPending_cases s
    · cases (closeReleasesLines s hlink hclk hdio hr).symm.trans h
      nofun
    · have hexec := closeReleasesLines { s with inputs := [] } hlink hclk hdio rfl
      obtain ⟨evs, -, ⟨d, hend⟩ | hend⟩ := exec_of_reset hin hexec
      · cases hend.symm.trans h
        nofun
      · cases hend.symm.trans h
        nofun
  · cases (exec_closeLink_of_not_opened hlink).symm.trans h
    exact hlink

/-- Settles O24. -/
theorem closeTwiceReleasesOnce : Obligations.CloseTwiceReleasesOnce :=
  fun _ _ hinv h => exec_closeLink_of_not_opened (link_ne_opened_of_close hinv h)

end Sys2Proof.Machine
end

section
/-! PROOFS. The frame and the result of every command (10_state.md R26, R28, 41_transport.md R115) and what
its events show of the lines (40_lines.md R86, R89, R90, R92). -/

namespace Sys2Proof.Machine

/-! ### The frame of a command -/

/-- Bus traffic changes neither LINK nor a claim, whatever the result of the command (R145). -/
theorem perform_traffic_frame {sc : Script} (hsc : Script.IsTraffic sc) {s t : State}
    (hr : s.resetPending = false) (h : perform sc s = .next t) :
    t.link = s.link ∧ t.clk.claimed = s.clk.claimed ∧ t.dio.claimed = s.dio.claimed := by
  obtain ⟨u, acks, hrun, rfl⟩ | ⟨u, acks, hrun, rfl⟩ | hrun := perform_ends h
  · obtain ⟨hlink, hclk, hdio⟩ := runScript_traffic hsc (.inl hrun)
    exact ⟨hlink, hclk, hdio⟩
  · obtain ⟨hlink, hclk, hdio⟩ := runScript_traffic hsc (.inr hrun)
    exact ⟨hlink, hclk, hdio⟩
  · exact absurd hrun (runScript_ne_cut hr)

/-- Settles O37. -/
theorem commandFrame : Obligations.CommandFrame := by
  intro i s t hr h
  obtain ⟨evs, k⟩ := exec_commandInterruption hr h
  obtain ⟨hhold, htxbuf, hinputs⟩ := exec_keeps_side hr h
  refine ⟨k.bitOrder, hhold, htxbuf, k.params, hinputs, k.hostRead, fun hopen hclose => ?_⟩
  by_cases hruns : Runs i s
  · rw [exec_eq_perform hruns.1 hopen hruns.2] at h
    exact perform_traffic_frame (commandScript_isTraffic s hopen hclose) hr h
  · cases (exec_of_not_runs hruns).symm.trans h
    exact ⟨rfl, rfl, rfl⟩

/-! ### The acknowledges -/

/-- The result of a command performed is the acknowledges its events sampled (R110, R141). -/
theorem perform_acks {sc : Script} {s t : State} (hr : s.resetPending = false)
    (h : perform sc s = .next t) :
    ∃ evs, t.trace = s.trace ++ evs ∧ t.ackcnt = (sampledAcks evs).length ∧
      t.ackv = BitVec.ofNat 32 (ackSum (sampledAcks evs)) := by
  obtain ⟨u, acks, hrun, rfl⟩ | ⟨u, acks, hrun, rfl⟩ | hrun := perform_ends h
  · obtain ⟨v, evs, hend, hframe, -⟩ | ⟨v, evs, e, hend, -⟩ | ⟨v, evs, hend, -⟩ | hend :=
      hrun ▸ runScript_ends sc s.beginScript [] <;> cases hend
    exact ⟨evs, hframe.trace, rfl, rfl⟩
  · obtain ⟨v, evs, hend, -⟩ | ⟨v, evs, e, hend, hframe, hfailed, -⟩ | ⟨v, evs, hend, -⟩ |
      hend :=
      hrun ▸ runScript_ends sc s.beginScript [] <;> cases hend
    have hacks : sampledAcks (evs ++ [e]) = sampledAcks evs := by
      rw [sampledAcks_append]
      cases e with
      | smp l v => cases v <;> simp_all [sampledAcks, LineEvent.failed]
      | _ => simp [sampledAcks]
    exact ⟨evs ++ [e], hframe.trace, congrArg List.length hacks.symm,
      congrArg (BitVec.ofNat 32 ∘ ackSum) hacks.symm⟩
  · exact absurd hrun (runScript_ne_cut hr)

/-- Settles O35: OPEN and a rejected command sample nothing, and a script reports its samples. -/
theorem acknowledgesReportSamples : Obligations.AcknowledgesReportSamples := by
  intro i s t hr h
  have hmain : ∃ evs, t.trace = s.trace ++ evs ∧ t.ackcnt = (sampledAcks evs).length ∧
      t.ackv = BitVec.ofNat 32 (ackSum (sampledAcks evs)) := by
    by_cases hruns : Runs i s
    · by_cases hopen : i = .openLink
      · subst hopen
        rw [exec_openLink_of_runs hruns] at h
        obtain ⟨evs, hevs, htrace, hcnt, hv⟩ := performOpen_events hr h
        have hnone : ∀ evs ∈ openEvents :: openFailures, sampledAcks evs = [] := by decide
        exact ⟨evs, htrace, by rw [hcnt, hnone evs hevs]; rfl, by rw [hv, hnone evs hevs]; rfl⟩
      · rw [exec_eq_perform hruns.1 hopen hruns.2] at h
        exact perform_acks hr h
    · cases (exec_of_not_runs hruns).symm.trans h
      exact ⟨[], (List.append_nil _).symm, rfl, rfl⟩
  obtain ⟨evs, htrace, hcnt, hv⟩ := hmain
  refine ⟨evs, htrace, hcnt, hv, fun k hk => ?_⟩
  rw [hv, BitVec.getLsbD_ofNat, ackSum_testBit]
  simp [hk]

/-! ### The transitions of XST -/

/-- A command without a script to run keeps XST, by the rows of R115 for rejected commands. -/
theorem xstRow_of_not_runs {i : Instr} {s : State} (hlink : s.link = .opened) (h : ¬ Runs i s) :
    xstRow s.xst i (admission i s) s.xst = true ∧ i ≠ .closeLink := by
  cases i with
  | closeLink => exact absurd ⟨rfl, fun _ => hlink⟩ h
  | openLink => cases hx : s.xst <;> simp [xstRow, admission, hlink, isFramed]
  | start | writeByte | stop | writeCmd =>
    cases hx : s.xst <;>
      simp_all [Runs, xstRow, admission, admission.inLink, isFramed]
  | writeRegBuf r n =>
    by_cases hn : s.params.maxPayload.val < n.toNat <;> cases hx : s.xst <;>
      simp_all [Runs, xstRow, admission, admission.inLink, isFramed]
  | setBrightness l =>
    by_cases hl : s.params.brightnessMax < l <;> cases hx : s.xst <;>
      simp_all [Runs, xstRow, admission, admission.inLink, isFramed]

/-- The script of a command moves XST along the row of R115 for OK. -/
theorem xstRow_ok_of_runs {i : Instr} {s : State} (hruns : Runs i s) (hopen : i ≠ .openLink) :
    xstRow s.xst i .ok (Script.xstAfter (commandScript s i) s.xst) = true := by
  cases i with
  | openLink => exact absurd rfl hopen
  | closeLink => cases s.xst <;> rfl
  | start =>
    rw [hruns.idle (.inl rfl)]
    rfl
  | writeByte b =>
    rw [commandScript, sendByteScript_xstAfter, hruns.inframe]
    rfl
  | stop =>
    have hx := hruns.stop_xst
    rw [commandScript]
    cases h : s.xst with
    | idle => exact absurd h hx
    | inframe | aborted => rfl
  | writeCmd | writeRegBuf | setBrightness =>
    rw [commandScript, frameScript_xstAfter, hruns.idle (.inr rfl)]
    rfl

/-- A command that is aborted moves XST along the row of R115 for IO_ERROR. -/
theorem xstRow_ioError_of_runs {i : Instr} {s : State} (hruns : Runs i s) (hopen : i ≠ .openLink)
    (hclose : i ≠ .closeLink) : xstRow s.xst i .ioError .aborted = true := by
  cases i with
  | openLink => exact absurd rfl hopen
  | closeLink => exact absurd rfl hclose
  | start =>
    rw [hruns.idle (.inl rfl)]
    rfl
  | writeByte b =>
    rw [hruns.inframe]
    rfl
  | stop =>
    have hx := hruns.stop_xst
    cases h : s.xst with
    | idle => exact absurd h hx
    | inframe | aborted => rfl
  | writeCmd | writeRegBuf | setBrightness =>
    rw [hruns.idle (.inr rfl)]
    rfl

/-- Settles O36. -/
theorem transactionStateFollowsTable : Obligations.TransactionStateFollowsTable := by
  rintro i s t ⟨hrest, -, -⟩ hlink hr h
  by_cases hruns : Runs i s
  case neg =>
    obtain ⟨hrow, hclose⟩ := xstRow_of_not_runs hlink hruns
    cases (exec_of_not_runs hruns).symm.trans h
    exact ⟨hrow, by rw [if_neg hclose]; exact hlink⟩
  have hopen : i ≠ .openLink := by
    rintro rfl
    cases hlink.symm.trans hruns.unopened
  by_cases hops : s.OpsSucceed (commandLineOps s i)
  · obtain ⟨w, hexec, -⟩ := exec_of_opsSucceed hrest hruns hopen hr hops
    cases hexec.symm.trans h
    refine ⟨xstRow_ok_of_runs hruns hopen, ?_⟩
    by_cases hclose : i = .closeLink
    · subst hclose
      rfl
    · rw [if_neg hclose]
      exact ((commandScript_isTraffic s hopen hclose).linkAfter s.link).trans hlink
  · have hclose : i ≠ .closeLink := by
      rintro rfl
      exact hops fun k hk => absurd hk (Nat.not_lt_zero k)
    obtain ⟨pre, e, rest, -, -, -, -, hexec⟩ := exec_of_not_opsSucceed hrest hruns hopen hr hops
    cases hexec.symm.trans h
    exact ⟨xstRow_ioError_of_runs hruns hopen hclose, by rw [if_neg hclose]; exact hlink⟩

/-! ### CLK is never turned IN and never sampled -/

/-- An event a command can emit is no DIR(CLK, IN) and no sample of CLK (R89). -/
theorem LineEvent.OfCommand.notClkInOrSample {e : LineEvent} (h : e.OfCommand) :
    e.notClkInOrSample = true := by
  obtain rfl | ⟨m, hm, ⟨v, rfl⟩ | hfail⟩ := h
  · rfl
  · cases m with
    | dir l d =>
      cases l <;> cases d <;> simp_all [Micro.inCommands, okEvent, LineEvent.notClkInOrSample]
    | smp l => cases l <;> simp_all [Micro.inCommands, okEvent, LineEvent.notClkInOrSample]
    | claim | drv | hold | rel => rfl
  · cases m with
    | dir l d =>
      cases hfail
      cases l <;> cases d <;> simp_all [Micro.inCommands, LineEvent.notClkInOrSample]
    | smp l =>
      cases hfail
      cases l <;> simp_all [Micro.inCommands, LineEvent.notClkInOrSample]
    | claim | drv =>
      cases hfail
      rfl
    | hold | rel => cases hfail

/-- Settles O39. -/
theorem noDirInOrSampleOfClk : Obligations.NoDirInOrSampleOfClk := by
  intro i s t h
  obtain ⟨evs, htrace, hevs⟩ := exec_commandTrace h
  exact ⟨evs, htrace, fun e he => (hevs e he).notClkInOrSample⟩

/-! ### OPEN makes no edge -/

theorem undrivenLevels_append (w : Wires) (a b : List LineEvent) :
    undrivenLevels w (a ++ b) = undrivenLevels w a ++ undrivenLevels (a.foldl applyEvent w) b := by
  induction a generalizing w with
  | nil => rfl
  | cons e a ih => rw [List.cons_append, undrivenLevels, ih]; rfl

/-- The levels on the wires after events cut by a reset: those after the events, then HIGH (R87, R165). -/
theorem mem_undrivenLevels_cut {w : Wires} {evs : List LineEvent} {n : Nat} {p : Option Level × Option Level}
    (h : p ∈ undrivenLevels w (evs.take n ++ [.rst])) :
    p ∈ undrivenLevels w evs ∨ p = (some .high, some .high) := by
  rw [undrivenLevels_append, List.mem_append] at h
  obtain h | h := h
  · left
    rw [← List.take_append_drop n evs, undrivenLevels_append]
    exact List.mem_append_left _ h
  · right
    simpa [undrivenLevels, applyEvent, LineState.released, wire] using h

/-- Settles O22: the events of each end of OPEN keep both wires HIGH, and so do those before a reset. -/
theorem openMakesNoEdge : Obligations.OpenMakesNoEdge := by
  intro s t hlines hlink h
  obtain ⟨-, -, hclk, hdio⟩ := id hlines
  rw [hclk, hdio]
  have hall : ∀ evs ∈ openEvents :: openFailures,
      ∀ p ∈ undrivenLevels (.released, .released) evs, p = (some .high, some .high) := by decide
  obtain hr | ⟨n, rest, hin⟩ := resetPending_cases s
  · rw [exec_openLink_of_unopened hlink] at h
    obtain ⟨evs, hevs, htrace, -⟩ := performOpen_events hr h
    exact ⟨evs, htrace, hall evs hevs⟩
  · have hbase : ∃ u, exec .openLink { s with inputs := [] } = .next u := by
      rw [exec_openLink_of_unopened (s := { s with inputs := [] }) hlink]
      obtain hend | ⟨_, _, _, _, hend⟩ :=
        performOpen_of_linesReleased (s := { s with inputs := [] }) hlines rfl
      · exact ⟨_, hend⟩
      · exact ⟨_, hend⟩
    obtain ⟨u, hu⟩ := hbase
    obtain ⟨evs, htrace, hend⟩ := exec_of_reset hin hu
    rw [exec_openLink_of_unopened (s := { s with inputs := [] }) hlink] at hu
    obtain ⟨evs', hevs, htrace', -⟩ := performOpen_events (s := { s with inputs := [] }) rfl hu
    obtain rfl : evs' = evs := List.append_cancel_left (htrace'.symm.trans htrace)
    obtain ⟨d, hend⟩ | hend := hend
    · cases hend.symm.trans h
      refine ⟨evs'.take n ++ [LineEvent.rst], List.append_assoc _ _ _, fun p hp => ?_⟩
      exact (mem_undrivenLevels_cut hp).elim (hall evs' hevs p) id
    · cases hend.symm.trans h
      exact ⟨evs', htrace, hall evs' hevs⟩

end Sys2Proof.Machine
end

section
/-! PROOFS. The protocol on the wire (40_lines.md R86, R90, 42_protocol.md R131): every line write has its
HOLD, DIO changes only where it may, and a target reads the bytes sent. -/

namespace Sys2Proof.Machine

/-! ### HOLD follows every line write -/

/-- Events after others keep the HOLD discipline when both do and no HOLD stands at the seam. -/
theorem holdDiscipline_append {a b : List LineEvent} (ha : holdDiscipline a = true)
    (hb : holdDiscipline b = true) (hhead : (b.head? == some .hold) = false) :
    holdDiscipline (a ++ b) = true := by
  induction a with
  | nil => exact hb
  | cons e a ih =>
    simp only [List.cons_append, holdDiscipline, Bool.and_eq_true] at ha ⊢
    refine ⟨?_, ih ha.2⟩
    cases a with
    | nil => simpa [hhead] using ha.1
    | cons e' a' => exact ha.1

theorem bytesEvents_holdDiscipline (order : BitOrder) (bs : List Byte) (levels : Nat → Level) :
    holdDiscipline (bytesEvents order bs levels) = true := by
  induction bs generalizing levels with
  | nil => rfl
  | cons b bs ih =>
    refine holdDiscipline_append rfl (ih _) ?_
    cases bs <;> rfl

theorem frameEvents_holdDiscipline (order : BitOrder) (bs : List Byte) (levels : Nat → Level) :
    holdDiscipline (frameEvents order bs levels) = true := by
  refine holdDiscipline_append (holdDiscipline_append rfl (bytesEvents_holdDiscipline order bs levels) ?_)
    rfl rfl
  cases bs <;> rfl

/-- The events of a command keep the HOLD discipline. -/
theorem commandEvents_holdDiscipline (s : State) (i : Instr) :
    holdDiscipline (commandEvents s i) = true := by
  cases i with
  | openLink | closeLink | start | writeByte => rfl
  | stop =>
    rw [commandEvents]
    split <;> rfl
  | writeCmd | writeRegBuf | setBrightness => exact frameEvents_holdDiscipline _ _ _

/-- A command stopped at a line operation that fails keeps the HOLD discipline: the failed event needs no HOLD
and is none. -/
theorem holdDiscipline_failed {pre rest : List LineEvent} {e : LineEvent} (he : e.isLineOp = true)
    (h : holdDiscipline (pre ++ e :: rest) = true) : holdDiscipline (pre ++ [e.failedForm]) = true := by
  have hno : e.failedForm.needsHold = false ∧ (e == .hold) = false ∧ (e.failedForm == .hold) = false := by
    cases e <;> simp_all [LineEvent.isLineOp, LineEvent.failedForm, LineEvent.needsHold]
  obtain ⟨hneeds, hhold, hfailed⟩ := hno
  induction pre with
  | nil => simp [holdDiscipline, hneeds]
  | cons e' pre ih =>
    simp only [List.cons_append, holdDiscipline, Bool.and_eq_true] at h ⊢
    refine ⟨?_, ih h.2⟩
    cases pre with
    | nil => simpa [hhold, hfailed] using h.1
    | cons => exact h.1

/-- The events of a command performed, in any state it has a meaning in: those of its script, or those up to a
line operation and its failed form (R145). -/
theorem perform_events {sc : Script} {s t : State} (hr : s.resetPending = false)
    (hclaim : ∀ m ∈ scriptMicros sc, m.isClaim = false) (h : perform sc s = .next t) :
    t.trace = s.trace ++ microEvents (scriptMicros sc) s.levelAnswer ∨
    ∃ pre e rest, microEvents (scriptMicros sc) s.levelAnswer = pre ++ e :: rest ∧ e.isLineOp = true ∧
      t.trace = s.trace ++ (pre ++ [e.failedForm]) := by
  rw [perform] at h
  obtain hrun | ⟨u, hrun, hframe, -⟩ | ⟨u, pre, e, rest, hsplit, he, hrun, hframe, -⟩ :=
    runScript_answers sc s.beginScript [] hr hclaim
  · rw [hrun] at h
    cases h
  · rw [hrun] at h
    cases h
    exact .inl hframe.trace
  · rw [hrun] at h
    cases h
    exact .inr ⟨pre, e, rest, hsplit, he, hframe.trace⟩

/-- Settles O40: by the events of each end of OPEN, and of the script of every other command. -/
theorem holdFollowsEveryLineWrite : Obligations.HoldFollowsEveryLineWrite := by
  intro i s t hr h
  by_cases hruns : Runs i s
  case neg =>
    cases (exec_of_not_runs hruns).symm.trans h
    exact ⟨[], (List.append_nil _).symm, rfl⟩
  by_cases hopen : i = .openLink
  · subst hopen
    rw [exec_openLink_of_runs hruns] at h
    obtain ⟨evs, hevs, htrace, -⟩ := performOpen_events hr h
    have hall : ∀ evs ∈ openEvents :: openFailures, holdDiscipline evs = true := by decide
    exact ⟨evs, htrace, hall evs hevs⟩
  · rw [exec_eq_perform hruns.1 hopen hruns.2] at h
    have hall := commandEvents_holdDiscipline s i
    have hends := perform_events hr (commandScript_noClaim s hopen) h
    rw [commandScript_events] at hends
    obtain htrace | ⟨pre, e, rest, hsplit, he, htrace⟩ := hends
    · exact ⟨_, htrace, hall⟩
    · exact ⟨_, htrace, holdDiscipline_failed he (hsplit ▸ hall)⟩

/-! ### DIO changes only while CLK is LOW -/

section ProtocolSafe

variable {startAt stopAt : Option Nat} {k : Nat} {w : Wires}

theorem protocolSafe_append (a b : List LineEvent) :
    protocolSafe startAt stopAt k w (a ++ b) = (protocolSafe startAt stopAt k w a &&
      protocolSafe startAt stopAt (k + a.length) (a.foldl applyEvent w) b) := by
  induction a generalizing k w with
  | nil => rfl
  | cons e a ih =>
    rw [List.cons_append, protocolSafe, ih, protocolSafe, Bool.and_assoc, List.length_cons,
      List.foldl_cons, Nat.add_assoc, Nat.add_comm 1]

/-- An event that cannot change DIO is safe anywhere (R90). -/
theorem protocolSafe_singleton {e : LineEvent} (h : e.changesDio = false) :
    protocolSafe startAt stopAt k w [e] = true := by
  simp [protocolSafe, h]

/-- One event more that cannot change DIO. -/
theorem protocolSafe_snoc {evs : List LineEvent} {e : LineEvent}
    (h : protocolSafe startAt stopAt k w evs = true) (he : e.changesDio = false) :
    protocolSafe startAt stopAt k w (evs ++ [e]) = true := by
  rw [protocolSafe_append, h, protocolSafe_singleton he]
  rfl

theorem protocolSafe_of_append {a b : List LineEvent}
    (h : protocolSafe startAt stopAt k w (a ++ b) = true) : protocolSafe startAt stopAt k w a = true := by
  rw [protocolSafe_append, Bool.and_eq_true] at h
  exact h.1

theorem startEvents_safe :
    protocolSafe (some 0) stopAt 0 (.driven .high, .driven .high) startEvents = true := rfl

theorem sendByteEvents_safe (order : BitOrder) (b : Byte) (v x : Level) :
    protocolSafe startAt stopAt k (.driven .low, .driven x) (sendByteEvents order b v) = true := rfl

/-- The wires after the events of a byte. -/
theorem sendByteEvents_foldl (order : BitOrder) (b : Byte) (v x : Level) :
    (sendByteEvents order b v).foldl applyEvent (.driven .low, .driven x) =
      (.driven .low, .driven (levelOf (bitAt order b 7))) := rfl

/-- The wires after the events of bytes. -/
theorem bytesEvents_foldl (order : BitOrder) (bs : List Byte) (levels : Nat → Level) (x : Level) :
    ∃ y, (bytesEvents order bs levels).foldl applyEvent (.driven .low, .driven x) =
      (.driven .low, .driven y) := by
  obtain ⟨y, hy⟩ := bytesScript_leads order bs x
  refine ⟨y, ?_⟩
  rw [← bytesScript_events]
  exact (okEvents_microEvents _ _).foldl_applyEvent hy

theorem bytesEvents_safe (order : BitOrder) (bs : List Byte) (levels : Nat → Level) (x : Level) :
    protocolSafe startAt stopAt k (.driven .low, .driven x) (bytesEvents order bs levels) = true := by
  induction bs generalizing levels x k with
  | nil => rfl
  | cons b bs ih =>
    rw [bytesEvents, protocolSafe_append, sendByteEvents_safe, sendByteEvents_foldl, ih]
    rfl

/-- The stop edge is the fifth event of a normal stop (R112). -/
theorem stopEvents_safe (x : Level) :
    protocolSafe startAt (some (k + 4)) k (.driven .low, .driven x) stopEvents = true := by
  simp [protocolSafe, stopEvents, LineEvent.changesDio, applyEvent, stopEdge, LineState.driven]

/-- In a frame the start edge is the first event and the stop edge the one before the last HOLD (R126). -/
theorem frameEvents_safe (order : BitOrder) (bs : List Byte) (levels : Nat → Level) :
    protocolSafe (some 0) (some (8 + 57 * bs.length)) 0 (.driven .high, .driven .high)
      (frameEvents order bs levels) = true := by
  obtain ⟨y, hy⟩ := bytesEvents_foldl order bs levels .low
  have hstart : startEvents.foldl applyEvent (.driven .high, .driven .high) =
      (.driven .low, .driven .low) := rfl
  have hat : 8 + 57 * bs.length = 0 + (startEvents ++ bytesEvents order bs levels).length + 4 := by
    rw [List.length_append, bytesEvents_length, show startEvents.length = 4 from rfl]
    omega
  rw [frameEvents, protocolSafe_append, protocolSafe_append, startEvents_safe, List.foldl_append, hstart,
    bytesEvents_safe, hy, hat, stopEvents_safe]
  rfl

end ProtocolSafe

/-- The events of a command run from a resting state are safe, its edges in their places (R90). -/
theorem commandEvents_safe {i : Instr} {s : State} (hrest : s.Resting) (hruns : Runs i s)
    (hopen : i ≠ .openLink) (haborted : s.xst ≠ .aborted) :
    protocolSafe (startEdgeAt i) (stopEdgeAt s i) 0 (s.clk, s.dio) (commandEvents s i) = true := by
  have hlink := hruns.opened hopen
  cases i with
  | openLink => exact absurd rfl hopen
  | closeLink => rfl
  | start =>
    obtain ⟨-, -, hclk, hdio⟩ := busIdle_of_idle hrest hlink (hruns.idle (.inl rfl))
    rw [hclk, hdio]
    rfl
  | writeByte b =>
    obtain ⟨x, hlines⟩ := lines_of_inFrame (inFrame_of_inframe hrest hruns.inframe)
    rw [hlines]
    exact sendByteEvents_safe _ b _ x
  | stop =>
    have hx : s.xst = .inframe := by
      cases h : s.xst with
      | inframe => rfl
      | idle => exact absurd h hruns.stop_xst
      | aborted => exact absurd h haborted
    obtain ⟨x, hlines⟩ := lines_of_inFrame (inFrame_of_inframe hrest hx)
    rw [hlines, commandEvents, stopEdgeAt, commandLength, if_neg haborted, if_neg haborted]
    exact stopEvents_safe (k := 0) x
  | writeCmd c =>
    obtain ⟨-, -, hclk, hdio⟩ := busIdle_of_idle hrest hlink (hruns.idle (.inr rfl))
    have hat : stopEdgeAt s (.writeCmd c) = some (8 + 57 * [c].length) := rfl
    rw [hclk, hdio, hat]
    exact frameEvents_safe _ _ _
  | setBrightness l =>
    obtain ⟨-, -, hclk, hdio⟩ := busIdle_of_idle hrest hlink (hruns.idle (.inr rfl))
    have hat : stopEdgeAt s (.setBrightness l) =
        some (8 + 57 * [s.params.brightnessCmd, s.params.brightnessCmd ||| l].length) := rfl
    rw [hclk, hdio, hat]
    exact frameEvents_safe _ _ _
  | writeRegBuf r n =>
    obtain ⟨-, -, hclk, hdio⟩ := busIdle_of_idle hrest hlink (hruns.idle (.inr rfl))
    have hlen : ((s.params.addrHeader ||| r) :: s.txbuf.toList.take n.toNat).length = n.toNat + 1 := by
      rw [List.length_cons, payload_length hruns.payload_le]
    have hat : stopEdgeAt s (.writeRegBuf r n) = some (8 + 57 * (n.toNat + 1)) := by
      rw [stopEdgeAt, commandLength, Option.some_inj]
      omega
    rw [hclk, hdio, hat, ← hlen]
    exact frameEvents_safe _ _ _

/-- Without a pending reset the events of a command are safe, also when it fails. -/
theorem exec_safe_of_not_pending {i : Instr} {s t : State} (hrest : s.Resting)
    (haborted : s.xst ≠ .aborted) (hopen : i ≠ .openLink) (hr : s.resetPending = false)
    (h : exec i s = .next t) :
    ∃ evs, t.trace = s.trace ++ evs ∧
      protocolSafe (startEdgeAt i) (stopEdgeAt s i) 0 (s.clk, s.dio) evs = true := by
  by_cases hruns : Runs i s
  case neg =>
    cases (exec_of_not_runs hruns).symm.trans h
    exact ⟨[], (List.append_nil _).symm, rfl⟩
  have hsafe := commandEvents_safe hrest hruns hopen haborted
  rw [exec_eq_perform hruns.1 hopen hruns.2] at h
  have hends := perform_events hr (commandScript_noClaim s hopen) h
  rw [commandScript_events] at hends
  obtain htrace | ⟨pre, e, rest, hsplit, he, htrace⟩ := hends
  · exact ⟨_, htrace, hsafe⟩
  · have hfailed : e.failedForm.changesDio = false := by
      cases e with
      | dir l d ok | drv l v ok => cases l <;> rfl
      | smp l v => rfl
      | claim | hold | rel | rst => cases he
    exact ⟨_, htrace, protocolSafe_snoc (protocolSafe_of_append (hsplit ▸ hsafe)) hfailed⟩

/-- Settles O38: a reset leaves the first of the safe events, and RST, which does not drive DIO. -/
theorem dioChangesOnlyWhileClkLow : Obligations.DioChangesOnlyWhileClkLow := by
  rintro i s t hinv haborted hopen h
  obtain hr | ⟨n, rest, hin⟩ := resetPending_cases s
  · exact exec_safe_of_not_pending hinv.1 haborted hopen hr h
  · obtain ⟨u, hu, -⟩ := exec_inv_of_not_pending i (s := { s with inputs := [] }) hinv rfl
    obtain ⟨evs, htrace, hsafe⟩ :=
      exec_safe_of_not_pending (s := { s with inputs := [] }) hinv.1 haborted hopen rfl hu
    have hsafe' : protocolSafe (startEdgeAt i) (stopEdgeAt s i) 0 (s.clk, s.dio) evs = true := hsafe
    obtain ⟨evs', htrace', ⟨d, hend⟩ | hend⟩ := exec_of_reset hin hu
    · obtain rfl : evs = evs' := List.append_cancel_left (htrace.symm.trans htrace')
      cases hend.symm.trans h
      rw [← List.take_append_drop n evs] at hsafe'
      exact ⟨evs.take n ++ [LineEvent.rst], List.append_assoc _ _ _,
        protocolSafe_snoc (protocolSafe_of_append hsafe') rfl⟩
    · cases hend.symm.trans h
      exact ⟨evs, htrace, hsafe'⟩

/-! ### What a target reads -/

/-- The receiver after events. -/
def Receiver.after (r : Receiver) (evs : List LineEvent) : Receiver :=
  evs.foldl (fun r e => (r.next e).1) r

theorem wireSymbols_append (r : Receiver) (a b : List LineEvent) :
    wireSymbols r (a ++ b) = wireSymbols r a ++ wireSymbols (r.after a) b := by
  induction a generalizing r with
  | nil => rfl
  | cons e a ih => rw [List.cons_append, wireSymbols, ih, wireSymbols, List.append_assoc]; rfl

/-- The bit-pulses of a byte (R107, R109). -/
def bitSymbols (order : BitOrder) (b : Byte) : List WireSymbol :=
  bitSlots.map fun i => .bit (levelOf (bitAt order b i))

/-- The symbols of a byte: its bit-pulses and the ack-pulse (R109). -/
def byteSymbols (order : BitOrder) (b : Byte) : List WireSymbol := bitSymbols order b ++ [.ackPulse]

theorem bitSymbols_isBit (order : BitOrder) (b : Byte) : ∀ x ∈ bitSymbols order b, x.isBit = true := by
  simp [bitSymbols, WireSymbol.isBit]

section Receiving

variable (order : BitOrder)

/-- A receiver with CLK LOW, no pulse begun and DIO not handed over. -/
abbrev Receiver.betweenPulses (d : Level) : Receiver := ⟨.low, d, false, false⟩

theorem wireSymbols_sendByteEvents (b : Byte) (v d : Level) :
    wireSymbols (.betweenPulses d) (sendByteEvents order b v) = byteSymbols order b := by
  rw [byteSymbols, bitSymbols]
  rfl

theorem after_sendByteEvents (b : Byte) (v d : Level) :
    (Receiver.betweenPulses d).after (sendByteEvents order b v) =
      .betweenPulses (levelOf (bitAt order b 7)) := rfl

theorem wireSymbols_stopEvents (d : Level) : wireSymbols (.betweenPulses d) stopEvents = [.stop] := rfl

theorem wireSymbols_bytes_stop (bs : List Byte) (levels : Nat → Level) (d : Level) :
    wireSymbols (.betweenPulses d) (bytesEvents order bs levels ++ stopEvents) =
      (bs.map (byteSymbols order)).flatten ++ [.stop] := by
  induction bs generalizing levels d with
  | nil => exact wireSymbols_stopEvents d
  | cons b bs ih =>
    rw [bytesEvents, List.append_assoc, wireSymbols_append, wireSymbols_sendByteEvents, after_sendByteEvents,
      ih, List.map_cons, List.flatten_cons, List.append_assoc]

/-- A frame is one start transition, the symbols of its bytes and one stop transition (R126, R131). -/
theorem wireSymbols_frameEvents (bs : List Byte) (levels : Nat → Level) :
    wireSymbols .idle (frameEvents order bs levels) =
      .start :: ((bs.map (byteSymbols order)).flatten ++ [.stop]) := by
  have hstart : Receiver.idle.after startEvents = .betweenPulses .low := rfl
  rw [frameEvents, List.append_assoc, wireSymbols_append, hstart, wireSymbols_bytes_stop]
  rfl

/-- Shifting in the bits of a byte in the order they are sent gives the byte (R107, R108). -/
theorem foldl_shiftIn (b : Byte) :
    (bitSlots.map fun i => levelOf (bitAt order b i)).foldl (shiftIn order) 0 = b := by
  revert b
  cases order <;> decide

theorem receivedBytes_bits (acc : Byte) (vs : List Level) (rest : List WireSymbol) :
    receivedBytes order acc (vs.map .bit ++ rest) =
      receivedBytes order (vs.foldl (shiftIn order) acc) rest := by
  induction vs generalizing acc with
  | nil => rfl
  | cons v vs ih => exact ih _

theorem receivedBytes_byteSymbols (b : Byte) (rest : List WireSymbol) :
    receivedBytes order 0 (byteSymbols order b ++ rest) = b :: receivedBytes order 0 rest := by
  have hbits : bitSymbols order b = (bitSlots.map fun i => levelOf (bitAt order b i)).map .bit := by
    rw [List.map_map]
    rfl
  rw [byteSymbols, List.append_assoc, hbits, receivedBytes_bits, foldl_shiftIn]
  rfl

/-- A target reads the bytes whose symbols it sees, none lost and none twice (R131). -/
theorem receivedBytes_flatten (bs : List Byte) (rest : List WireSymbol) :
    receivedBytes order 0 ((bs.map (byteSymbols order)).flatten ++ rest) =
      bs ++ receivedBytes order 0 rest := by
  induction bs with
  | nil => rfl
  | cons b bs ih =>
    rw [List.map_cons, List.flatten_cons, List.append_assoc, receivedBytes_byteSymbols, ih, List.cons_append]

/-- The symbols of bytes hold no start and no stop. -/
theorem not_mem_flatten_byteSymbols (bs : List Byte) {x : WireSymbol} (hx : x = .start ∨ x = .stop) :
    x ∉ (bs.map (byteSymbols order)).flatten := by
  intro hmem
  obtain ⟨block, hblock, hxb⟩ := List.mem_flatten.mp hmem
  obtain ⟨b, -, rfl⟩ := List.mem_map.mp hblock
  rw [byteSymbols, List.mem_append, List.mem_singleton] at hxb
  obtain hbit | hack := hxb
  · have := bitSymbols_isBit order b x hbit
    obtain rfl | rfl := hx <;> cases this
  · obtain rfl | rfl := hx <;> cases hack

end Receiving

/-- Settles O41: the blocks are the symbols of the bytes of the frame. -/
theorem writeRegBufByteExact : Obligations.WriteRegBufByteExact := by
  intro s r n hidle hr hn hops
  obtain ⟨hexec, hlen⟩ := writeRegBufSendsFrame s r n hidle hr hn hops
  refine ⟨_, _, ((s.params.addrHeader ||| r) :: s.txbuf.toList.take n.toNat).map (byteSymbols s.bitOrder),
    hexec, rfl, wireSymbols_frameEvents s.bitOrder _ _, ?_, ?_, ?_⟩
  · rw [List.length_map, List.length_cons, hlen]
  · intro block hblock
    obtain ⟨b, -, rfl⟩ := List.mem_map.mp hblock
    exact ⟨bitSymbols s.bitOrder b, rfl, rfl, bitSymbols_isBit s.bitOrder b⟩
  · rw [wireSymbols_frameEvents]
    exact (receivedBytes_flatten s.bitOrder _ [.stop]).trans (List.append_nil _)

/-- A frame as a target sees it (R126, R131). -/
theorem frame_reaches_target {s : State} {i : Instr} {bs : List Byte}
    (h : exec i s = .next (s.afterFrame bs)) :
    ∃ (t : State) (evs : List LineEvent) (syms : List WireSymbol),
      exec i s = .next t ∧ t.trace = s.trace ++ evs ∧
      wireSymbols .idle evs = .start :: (syms ++ [.stop]) ∧ .start ∉ syms ∧ .stop ∉ syms ∧
      receivedBytes s.bitOrder 0 syms = bs := by
  refine ⟨_, _, (bs.map (byteSymbols s.bitOrder)).flatten, h, rfl, wireSymbols_frameEvents s.bitOrder bs _,
    not_mem_flatten_byteSymbols s.bitOrder bs (.inl rfl),
    not_mem_flatten_byteSymbols s.bitOrder bs (.inr rfl), ?_⟩
  have := receivedBytes_flatten s.bitOrder bs []
  rw [List.append_nil] at this
  exact this.trans (List.append_nil bs)

/-- Settles O42. -/
theorem commandBytesReachTarget : Obligations.CommandBytesReachTarget :=
  fun s hidle hr => ⟨fun c hops => frame_reaches_target (writeCmdSendsFrame s c hidle hr hops),
    fun l hl hops => frame_reaches_target (setBrightnessSendsFrame s l hidle hr hl hops)⟩

/-- Settles O43. -/
theorem writeByteNinePulses : Obligations.WriteByteNinePulses := by
  intro s b hframe hr hops
  refine ⟨_, _, bitSymbols s.bitOrder b, writeByteSendsByte s b hframe hr hops, rfl,
    wireSymbols_sendByteEvents s.bitOrder b _, rfl, bitSymbols_isBit s.bitOrder b, ?_⟩
  have := receivedBytes_byteSymbols s.bitOrder b []
  rwa [List.append_nil] at this

end Sys2Proof.Machine
end

section
/-! PROOFS. Steps, resets and the register window (10_state.md R29 to R36, 20_memory.md R56, R59). -/

namespace Sys2Proof.Machine

/-! ### Steps -/

/-- Settles O5: `withFetchWord` puts the CMD write of the word in front. -/
theorem stepRunsDecodedCommand : Obligations.StepRunsDecodedCommand := by
  refine ⟨fun s rest w i hin hw => step_cmdWrite_of_command hin hw, fun s w i hw => ?_⟩
  have hdecode : decode (BitVec.ofNat 32 (w % 2 ^ 32)) = .command i := by
    rw [decodeTableWord, if_pos (Nat.le_refl 32)] at hw
    cases h : decode (BitVec.ofNat 32 (w % 2 ^ 32)) with
    | command i' =>
      rw [h] at hw
      exact congrArg _ (Option.some_inj.mp hw)
    | illegal why =>
      rw [h] at hw
      cases hw
  exact step_cmdWrite_of_command (s := s.withFetchWord 32 w) rfl hdecode

/-- Settles O7. -/
theorem stepWaitsForHostAccess : Obligations.StepWaitsForHostAccess := by
  intro s h
  simp [step, nextRequest, h]

/-- A reset in front of the pending inputs is taken (R165). -/
theorem step_reset {s : State} {n : Nat} {rest : List HostInput} (h : s.inputs = .reset n :: rest) :
    step s = .next (takeReset s.dropInput) := by
  simp [step, nextRequest, h]

/-! ### Reset -/

theorem replicate_getElem_zero (k : Fin 16) : (Vector.replicate 16 (0 : Byte))[k] = 0 :=
  Vector.getElem_replicate _

/-- Settles O9. -/
theorem resetStateValues : Obligations.ResetStateValues :=
  fun _ => ⟨rfl, rfl, rfl, rfl, rfl, rfl, rfl, rfl, rfl, rfl, replicate_getElem_zero, rfl,
    by simp [statusWord, State.resetWith, linkBits, xstBits, codeBits], rfl⟩

/-- Settles O10: by what `takeReset` sets each field to. -/
theorem resetStepSetsEveryField : Obligations.ResetStepSetsEveryField := by
  intro s n rest hin
  refine ⟨_, step_reset hin, ⟨rfl, rfl⟩, ⟨rfl, rfl⟩, ⟨rfl, rfl⟩, rfl, rfl, rfl, rfl,
    rfl, rfl, rfl, rfl, replicate_getElem_zero, rfl, ?_, rfl⟩
  simp [hin]

/-! ### Register accesses -/

/-- A supported read takes the input and returns what the register reads (R56). -/
theorem step_read {s : State} {offset : Nat} {rest : List HostInput}
    (h : s.inputs = .access (.read 4 offset) :: rest) (hoffset : accessRefusal 4 offset = none) :
    step s = .next { s with inputs := rest, hostRead := some (readReg (regAt offset) s) } := by
  have hdrop : s.dropInput = { s with inputs := rest } := by simp [State.dropInput, h]
  have hread : ∀ r, readReg r { s with inputs := rest } = readReg r s := by
    intro r
    rcases r with _ | r
    · rfl
    · cases r <;> rfl
  simp only [step, nextRequest, h, hdrop, serveAccess, hoffset, Int.toNat_natCast, hread]

/-- A supported write elsewhere than to CMD takes the input and writes the register (R56). -/
theorem step_write {s : State} {offset : Nat} {v : Word} {rest : List HostInput}
    (h : s.inputs = .access (.write 4 offset v) :: rest) (hoffset : accessRefusal 4 offset = none)
    (hcmd : regAt offset ≠ some .cmd) :
    step s = .next (writeReg (regAt offset) v { s with inputs := rest }) := by
  have hdrop : s.dropInput = { s with inputs := rest } := by simp [State.dropInput, h]
  simp only [step, nextRequest, h, hdrop, serveAccess, hoffset, Int.toNat_natCast]

/-- Every register is at a supported offset (R29, R51). -/
theorem accessRefusal_offset (r : Reg) : accessRefusal 4 r.offset = none := by
  rw [accessRefusal_eq_none_iff]
  cases r with
  | txbuf k =>
    have := k.isLt
    simp only [Reg.offset, true_and]
    omega
  | cmd | status | ack | config => decide

theorem step_readReg {s : State} {r : Reg} {rest : List HostInput}
    (h : s.inputs = .access (.read 4 r.offset) :: rest) :
    step s = .next { s with inputs := rest, hostRead := some (readReg (some r) s) } := by
  rw [step_read h (accessRefusal_offset r), regAt_offset]

theorem step_writeReg {s : State} {r : Reg} {v : Word} {rest : List HostInput}
    (h : s.inputs = .access (.write 4 r.offset v) :: rest) (hcmd : r ≠ .cmd) :
    step s = .next (writeReg (some r) v { s with inputs := rest }) := by
  rw [step_write h (accessRefusal_offset r) (by simpa [regAt_offset] using hcmd), regAt_offset]

/-- Settles O47. -/
theorem readsReturnRegisters : Obligations.ReadsReturnRegisters := by
  intro s r rest h
  rw [step_readReg h]
  cases r <;> rfl

/-- The offsets 0x10 to 0x3C are reserved (R35). -/
theorem regAt_reserved {k : Nat} (h4 : 4 ≤ k) (h16 : k < 16) :
    regAt (4 * k) = none ∧ accessRefusal 4 ((4 * k : Nat) : Int) = none := by
  refine ⟨?_, (accessRefusal_eq_none_iff _ _).mpr (by omega)⟩
  have : ∀ k : Fin 16, 4 ≤ k.val → regAt (4 * k.val) = none := by decide
  exact this ⟨k, h16⟩ h4

/-- Settles O48. -/
theorem reservedAndReadOnlyIgnoreWrites : Obligations.ReservedAndReadOnlyIgnoreWrites := by
  intro s rest k v
  refine ⟨fun h4 h16 h => ?_, fun h4 h16 h => ?_, fun hk h => ?_⟩
  · obtain ⟨hreg, hoffset⟩ := regAt_reserved h4 h16
    rw [step_read h hoffset, hreg]
    rfl
  · obtain ⟨hreg, hoffset⟩ := regAt_reserved h4 h16
    rw [step_write h hoffset (by simp [hreg]), hreg]
    rfl
  · obtain rfl | rfl := hk
    · exact step_writeReg (r := .status) h (by decide)
    · exact step_writeReg (r := .ack) h (by decide)

/-! ### The fields of STATUS -/

/-- A field of `n` bits, found at its place. -/
theorem extractLsb'_field {n : Nat} (f : BitVec n) {place : Nat} (h : place + n ≤ 32) :
    ((f.zeroExtend 32 : Word) <<< place).extractLsb' place n = f := by
  ext k hk
  simp [hk, show place + k < 32 by omega]

/-- Elsewhere a field leaves 0. -/
theorem extractLsb'_field_apart {n : Nat} (f : BitVec n) {place start len : Nat}
    (h : start + len ≤ place ∨ place + n ≤ start) :
    ((f.zeroExtend 32 : Word) <<< place).extractLsb' start len = 0 := by
  ext k hk
  obtain h | h := h
  · simp [show start + k < place by omega]
  · simp [BitVec.getLsbD_of_ge f (start + k - place) (by omega)]

/-- Part of STATUS, taken from its four fields one by one (R31). -/
theorem extractLsb'_statusWord (s : State) (start len : Nat) :
    (statusWord s).extractLsb' start len =
      ((linkBits s.link).zeroExtend 32 <<< 0).extractLsb' start len |||
        ((xstBits s.xst).zeroExtend 32 <<< 2).extractLsb' start len |||
        ((codeBits s.err).zeroExtend 32 <<< 8).extractLsb' start len |||
        ((BitVec.ofNat 5 s.ackcnt).zeroExtend 32 <<< 16).extractLsb' start len := by
  rw [statusWord, BitVec.shiftLeft_zero, BitVec.extractLsb'_or, BitVec.extractLsb'_or, BitVec.extractLsb'_or]

/-- Settles O49: each field of STATUS is alone in its place. -/
theorem statusFieldsInPlace : Obligations.StatusFieldsInPlace := by
  intro s hcnt
  simp (disch := omega) only [extractLsb'_statusWord, extractLsb'_field, extractLsb'_field_apart]
  refine ⟨?_, ?_, rfl, ?_, rfl, ?_, rfl⟩
  · cases s.link <;> rfl
  · cases s.xst <;> rfl
  · cases s.err <;> rfl
  · simp only [BitVec.toNat_or, BitVec.toNat_ofNat]
    simp
    omega

/-! ### Two steps -/

/-- A run of any machine takes its first step when that step has a next state. -/
theorem coreRun_succ_of_next {M : Host.Core} {s t : M.State} (h : M.step s = .next t) (k : Nat) :
    M.run (k + 1) s = M.run k t := by
  rw [Host.Core.run, h]

/-- A run of one step is the step. -/
theorem coreRun_one {M : Host.Core} (s : M.State) : M.run 1 s = M.step s := by
  rw [Host.Core.run]
  cases M.step s <;> rfl

theorem run_succ_of_next {s t : State} (h : step s = .next t) (k : Nat) :
    Host.Core.run core (k + 1) s = Host.Core.run core k t :=
  coreRun_succ_of_next (M := core) h k

theorem run_one (s : State) : Host.Core.run core 1 s = step s := coreRun_one (M := core) s

theorem run_two_of_next {s t : State} (h : step s = .next t) : Host.Core.run core 2 s = step t := by
  rw [run_succ_of_next h, run_one]

/-- CONFIG holds the bits of a written word that are not reserved (R33). -/
theorem configWord_of_write (s : State) (v : Word) :
    configWord (writeReg (some .config) v s) = v &&& 0xFFFF0001 := by
  have hbit : (orderBit (orderOfWord v)).zeroExtend 32 = v &&& 1 := by
    have hfield : orderBit (orderOfWord v) = v.extractLsb' 0 1 := by
      rw [orderOfWord]
      ext k hk
      obtain rfl : k = 0 := by omega
      cases h : v.getLsbD 0 <;> simp_all [orderBit]
    rw [hfield, ← BitVec.shiftLeft_zero (BitVec.zeroExtend 32 _)]
    exact zeroExtend_extractLsb'_shiftLeft v 1 0 1 (by decide)
  have hhold := zeroExtend_extractLsb'_shiftLeft v 0xFFFF0000 16 16 (by decide)
  rw [configWord]
  simp only [writeReg]
  rw [hbit, hhold, ← BitVec.and_or_distrib_left]
  rfl

/-- Settles O50. -/
theorem configReadsBackWithoutReservedBits : Obligations.ConfigReadsBackWithoutReservedBits := by
  intro s v rest h
  have hwrite := step_writeReg (r := .config) h (by decide)
  have hread := step_readReg (r := .config) (rest := rest)
    (s := writeReg (some .config) v { s with inputs := .access (.read 4 0x0C) :: rest }) rfl
  refine ⟨orderOfWord v, v.extractLsb' 16 16, ?_, rfl, ?_⟩
  · refine (run_two_of_next hwrite).trans (hread.trans ?_)
    rw [readReg, configWord_of_write]
    rfl
  · rw [orderOfWord]
    split <;> simp_all

/-- An entry of TXBUF holds the low byte of a written word (R34). -/
theorem readReg_txbuf_of_write (s : State) (k : Fin 16) (v : Word) :
    readReg (some (.txbuf k)) (writeReg (some (.txbuf k)) v s) = v &&& 0xFF := by
  have hset : (s.txbuf.set k (v.extractLsb' 0 8))[k] = v.extractLsb' 0 8 :=
    Vector.getElem_set_self k.isLt
  exact (congrArg (BitVec.zeroExtend 32) hset).trans (zeroExtend_argOf v)

/-- Settles O51. -/
theorem txbufReadsBackLowByte : Obligations.TxbufReadsBackLowByte := by
  intro s k v rest h
  have hwrite := step_writeReg (r := .txbuf k) h (by simp)
  have hread := step_readReg (r := .txbuf k) (rest := rest)
    (s := writeReg (some (.txbuf k)) v
      { s with inputs := .access (.read 4 (Reg.txbuf k).offset) :: rest }) rfl
  refine ⟨s.txbuf.set k (v.extractLsb' 0 8), ?_, Vector.getElem_set_self k.isLt, fun j hj => ?_⟩
  · refine (run_two_of_next hwrite).trans (hread.trans ?_)
    rw [readReg_txbuf_of_write]
    rfl
  · exact Vector.getElem_set_ne k.isLt j.isLt fun hkj => hj (Fin.ext hkj.symm)

/-- Settles O52: a command keeps the pending inputs, so the read comes next. -/
theorem statusReadSeesCommandResult : Obligations.StatusReadSeesCommandResult := by
  intro s t w rest h hstep
  have hinputs : t.inputs = .access (.read 4 0x04) :: rest := by
    cases hw : decode w with
    | command i =>
      rw [step_cmdWrite_of_command h hw] at hstep
      obtain ⟨-, -, hinputs⟩ :=
        exec_keeps_side (s := { s with inputs := .access (.read 4 0x04) :: rest }) rfl hstep
      exact hinputs
    | illegal why =>
      cases (step_cmdWrite_of_illegal h hw).symm.trans hstep
      rfl
  exact ⟨hinputs, step_readReg (r := .status) hinputs⟩

/-- Settles O53. -/
theorem commandSeesConfigWrite : Obligations.CommandSeesConfigWrite := by
  intro s v w i rest h hw
  have hwrite := step_writeReg (r := .config) h (by decide)
  have hcmd := step_cmdWrite_of_command (rest := rest)
    (s := writeReg (some .config) v { s with inputs := cmdWrite w :: rest }) rfl hw
  exact (run_two_of_next hwrite).trans hcmd

/-! ### The assembler -/

/-- A statement whose literals fit is expanded (R71). -/
theorem assemble_of_wellFormed {p : Params} {st : Stmt} (h : stmtWellFormed st = true) :
    assemble p st = some (expandStmt p st) := if_pos h

theorem literalFits_byte (b : Byte) : literalFits 8 b.toNat = true := decide_eq_true b.isLt

theorem not_literalFits_of_le {b : Nat} (h : 256 ≤ b) : literalFits 8 b = false :=
  decide_eq_false (Nat.not_lt.mpr h)

/-- The number of a word with one operand is that of its command (R65, R71). -/
theorem ofNat_or_byte (m : Nat) (b : Byte) :
    BitVec.ofNat 32 (m ||| b.toNat) = BitVec.ofNat 32 m ||| b.zeroExtend 32 := by
  rw [BitVec.ofNat_or, BitVec.ofNat_toNat]

/-- The number of the word of WRITE_REG_BUF (R65, R71). -/
theorem ofNat_writeRegBuf (r n : Byte) :
    BitVec.ofNat 32 (0x70000000 ||| (n.toNat <<< 16) ||| r.toNat) = encode (.writeRegBuf r n) := by
  have hn : ∀ n : Byte, BitVec.ofNat 32 (0x70000000 ||| (n.toNat <<< 16)) =
      0x70000000 ||| (n.zeroExtend 32 <<< 16) := by decide
  rw [ofNat_or_byte, hn, encode]

/-- A write of a command word to CMD. -/
theorem assembleWrite_cmd (p : Params) (v : Nat) :
    assembleWrite p .cmd v = .write 4 0 (BitVec.ofNat 32 v) := assembleWrite_eq p .cmd v

/-- Settles O59. -/
theorem statementsWriteCommandWords : Obligations.StatementsWriteCommandWords := by
  intro p
  refine ⟨?_, ?_, ?_, ?_, ?_, fun b => ?_, fun c => ?_, fun r n => ?_, fun l => ?_, fun b hb => ?_⟩
  iterate 5
    rw [assemble_of_wellFormed rfl, expandStmt, assembleWrite_cmd]
    rfl
  · rw [assemble_of_wellFormed (st := .wrbyte _) (literalFits_byte b), expandStmt, assembleWrite_cmd,
      ofNat_or_byte]
    rfl
  · rw [assemble_of_wellFormed (st := .wrcmd _) (literalFits_byte c), expandStmt, assembleWrite_cmd,
      ofNat_or_byte]
    rfl
  · rw [assemble_of_wellFormed (by simp [stmtWellFormed, literalFits_byte]), expandStmt, assembleWrite_cmd,
      ofNat_writeRegBuf]
  · rw [assemble_of_wellFormed (st := .setbri _) (literalFits_byte l), expandStmt, assembleWrite_cmd,
      ofNat_or_byte]
    rfl
  · have hb := not_literalFits_of_le hb
    simp [assemble, stmtWellFormed, hb]

/-! ### WRREGBUF -/

/-- TXBUF with bytes written to its entries from `k` on (R72). -/
def loadTxbuf : Nat → List Byte → Vector Byte 16 → Vector Byte 16
  | _, [], txbuf => txbuf
  | k, b :: bs, txbuf => loadTxbuf (k + 1) bs (txbuf.set (Fin.ofNat 16 k) b)

/-- What each entry of TXBUF is after the bytes are written. -/
theorem loadTxbuf_getElem (bs : List Byte) (k : Nat) (txbuf : Vector Byte 16) (h : k + bs.length ≤ 16)
    (j : Fin 16) :
    (loadTxbuf k bs txbuf)[j] = if k ≤ j.val then bs.getD (j.val - k) txbuf[j] else txbuf[j] := by
  induction bs generalizing k txbuf with
  | nil => simp [loadTxbuf]
  | cons b bs ih =>
    rw [List.length_cons] at h
    have hk : (Fin.ofNat 16 k).val = k := Nat.mod_eq_of_lt (by omega)
    have hget : (txbuf.set (Fin.ofNat 16 k) b)[j] = if k = j.val then b else txbuf[j] :=
      (Vector.getElem_set _ _).trans (by rw [hk, Fin.getElem_fin])
    rw [loadTxbuf, ih _ _ (by omega), hget]
    obtain hlt | heq | hgt := Nat.lt_trichotomy k j.val
    · have hsub : j.val - k = (j.val - (k + 1)) + 1 := by omega
      rw [if_pos (Nat.succ_le_of_lt hlt), if_pos (Nat.le_of_lt hlt), if_neg (Nat.ne_of_lt hlt), hsub,
        List.getD_cons_succ]
    · simp [heq]
    · rw [if_neg (by omega), if_neg (by omega), if_neg (by omega)]

/-- The writes of TXLOAD, run one a step, load TXBUF (R72). -/
theorem run_txloadFrom (bs : List Byte) (k m : Nat) (s : State) (rest : List HostInput) :
    Host.Core.run core (bs.length + m)
        { s with inputs := (txloadFrom s.params k (bs.map (·.toNat))).map .access ++ rest } =
      Host.Core.run core m { s with inputs := rest, txbuf := loadTxbuf k bs s.txbuf } := by
  induction bs generalizing k s with
  | nil =>
    rw [List.length_nil, Nat.zero_add]
    rfl
  | cons b bs ih =>
    have hbyte : (BitVec.ofNat 32 b.toNat).extractLsb' 0 8 = b := by
      ext i hi
      simp [hi, show i < 32 by omega]
    have hwrite := step_writeReg (r := .txbuf (Fin.ofNat 16 k)) (v := BitVec.ofNat 32 b.toNat)
      (s := { s with inputs := (txloadFrom s.params k ((b :: bs).map (·.toNat))).map .access ++ rest })
      (rest := (txloadFrom s.params (k + 1) (bs.map (·.toNat))).map .access ++ rest)
      (by simp [txloadFrom, assembleWrite_eq]) (by simp)
    rw [List.length_cons, Nat.add_right_comm, run_succ_of_next hwrite]
    simp only [writeReg, hbyte]
    exact ih (k + 1) { s with txbuf := s.txbuf.set (Fin.ofNat 16 k) b }

/-- Settles O60: the writes of the payload load TXBUF, and the last access is the CMD write of
WRITE_REG_BUF. -/
theorem wrregbufLoadsPayloadThenSends : Obligations.WrregbufLoadsPayloadThenSends := by
  intro s r bs rest hlen
  have hword : BitVec.ofNat 32 (0x70000000 ||| (bs.length <<< 16) ||| r.toNat) =
      encode (.writeRegBuf r (BitVec.ofNat 8 bs.length)) := by
    rw [← ofNat_writeRegBuf, BitVec.toNat_ofNat, Nat.mod_eq_of_lt (by omega)]
  have hwf : stmtWellFormed (.wrregbuf r.toNat (bs.map (·.toNat))) = true := by
    simp [stmtWellFormed, literalFits_byte, hlen]
  refine ⟨_, loadTxbuf 0 bs s.txbuf, assemble_of_wellFormed hwf, fun k => ?_, ?_⟩
  · simpa using loadTxbuf_getElem bs 0 s.txbuf (by omega) k
  · have hload := run_txloadFrom bs 0 1 s
      (cmdWrite (encode (.writeRegBuf r (BitVec.ofNat 8 bs.length))) :: rest)
    have hinputs : (expandStmt s.params (.wrregbuf r.toNat (bs.map (·.toNat)))).map .access ++ rest =
        (txloadFrom s.params 0 (bs.map (·.toNat))).map .access ++
          cmdWrite (encode (.writeRegBuf r (BitVec.ofNat 8 bs.length))) :: rest := by
      simp [expandStmt, assembleWrite_cmd, hword, cmdWrite]
    rw [hinputs, hload, run_one]
    exact step_cmdWrite_of_command rfl (decode_encode _)

end Sys2Proof.Machine
end
